-- ==== Sys2Proof/Word.lean ====
section
/-! DEFINITION. The bit-vector types of the machine, under the spec's own names (00_scope R6): a register value,
an address and a long have 32 bits, a word 16, a byte 8; the fields of an instruction word have 6, 5 and 5 bits
(30_encoding R101). -/

namespace Sys2Proof

/-- A register value, an address, or a 32-bit memory operand (00_scope R6, parameter XLEN of R4). -/
abbrev Long := BitVec 32

/-- A 16-bit memory operand and the instruction word (00_scope R6, parameter ILEN of R4). -/
abbrev Word := BitVec 16

/-- The addressable unit (20_memory R60). -/
abbrev Byte := BitVec 8

/-- The field `op` of an instruction word, bits 15 to 10 (30_encoding R101). -/
abbrev Opcode := BitVec 6

/-- A 5-bit operand field, `A` or `B` (30_encoding R101), read as a number. -/
abbrev Field := BitVec 5

/-- A 5-bit operand field that names a register 0 to 31 (10_state R20). -/
abbrev Reg := BitVec 5

/-- The three widths of a memory access (20_memory R63). -/
inductive Width where
  | byte
  | word
  | long
  deriving DecidableEq, Repr

end Sys2Proof
end

