-- ==== Sys2Proof/Syntax.lean ====
section
/-! DEFINITION. The instructions, one constructor per mnemonic of spec/opcode_table.json (30_encoding R110), the
kinds an opcode map selects among, and the conditions of `jump` and `jr`. Operands stand in the order of the fields:
`a` is field `A`, `b` is field `B` (30_encoding R102). A field the instruction ignores is kept, because the decoder
returns it (30_encoding R114, R116). -/

namespace Sys2Proof

/-- What an opcode value selects (30_encoding R110): one of the instructions, the pair `pack`/`unpack` told apart by
field `A` (R111), or UNKNOWN (R112). -/
inductive OpKind where
  | add | addc | addq | addqt | sub | subc | subq | subqt | neg
  | and | or | xor | not | btst | bset | bclr
  | mult | imult | div | abs
  | sh | shlq | shrq | sha | sharq | ror | rorq
  | cmp | cmpq | sat8 | sat16
  | move | moveq | moveta | movefa | movei
  | loadb | loadw | load | loadR14n | loadR15n
  | storeb | storew | store | storeR14n | storeR15n
  | movePc | jump | jr | nop
  | loadR14rm | loadR15rm | storeR14rm | storeR15rm
  | sat24 | packUnpack | unknown
  deriving DecidableEq, Repr

/-- The length in bytes of an instruction, a function of the opcode alone (30_encoding R103). -/
def OpKind.width : OpKind → Nat
  | .movei => 6
  | _ => 2

/-- Is this one of the two branch opcodes (45_control R224)? -/
def OpKind.isBranch : OpKind → Bool
  | .jump => true
  | .jr => true
  | _ => false

/-- The instructions (30_encoding R110). The comment of each constructor is its format (R102). -/
inductive Instr where
  /-- RR -/ | add (a b : Reg)
  /-- RR -/ | addc (a b : Reg)
  /-- QR -/ | addq (a : Field) (b : Reg)
  /-- QR -/ | addqt (a : Field) (b : Reg)
  /-- RR -/ | sub (a b : Reg)
  /-- RR -/ | subc (a b : Reg)
  /-- QR -/ | subq (a : Field) (b : Reg)
  /-- QR -/ | subqt (a : Field) (b : Reg)
  /-- R1, `a` ignored -/ | neg (a : Field) (b : Reg)
  /-- RR -/ | and (a b : Reg)
  /-- RR -/ | or (a b : Reg)
  /-- RR -/ | xor (a b : Reg)
  /-- R1, `a` ignored -/ | not (a : Field) (b : Reg)
  /-- UR -/ | btst (a : Field) (b : Reg)
  /-- UR -/ | bset (a : Field) (b : Reg)
  /-- UR -/ | bclr (a : Field) (b : Reg)
  /-- RR -/ | mult (a b : Reg)
  /-- RR -/ | imult (a b : Reg)
  /-- RR -/ | div (a b : Reg)
  /-- R1, `a` ignored -/ | abs (a : Field) (b : Reg)
  /-- RR -/ | sh (a b : Reg)
  /-- LR -/ | shlq (a : Field) (b : Reg)
  /-- QR -/ | shrq (a : Field) (b : Reg)
  /-- RR -/ | sha (a b : Reg)
  /-- QR -/ | sharq (a : Field) (b : Reg)
  /-- RR -/ | ror (a b : Reg)
  /-- QR -/ | rorq (a : Field) (b : Reg)
  /-- RR -/ | cmp (a b : Reg)
  /-- SR -/ | cmpq (a : Field) (b : Reg)
  /-- R1, `a` ignored -/ | sat8 (a : Field) (b : Reg)
  /-- R1, `a` ignored -/ | sat16 (a : Field) (b : Reg)
  /-- RR -/ | move (a b : Reg)
  /-- UR -/ | moveq (a : Field) (b : Reg)
  /-- RR -/ | moveta (a b : Reg)
  /-- RR -/ | movefa (a b : Reg)
  /-- I32, `a` ignored; `imm` is what the two extension words assemble to (30_encoding R104) -/
  | movei (a : Field) (b : Reg) (imm : Long)
  /-- MR -/ | loadb (a b : Reg)
  /-- MR -/ | loadw (a b : Reg)
  /-- MR -/ | load (a b : Reg)
  /-- MQ -/ | loadR14n (a : Field) (b : Reg)
  /-- MQ -/ | loadR15n (a : Field) (b : Reg)
  /-- MR -/ | storeb (a b : Reg)
  /-- MR -/ | storew (a b : Reg)
  /-- MR -/ | store (a b : Reg)
  /-- MQ -/ | storeR14n (a : Field) (b : Reg)
  /-- MQ -/ | storeR15n (a : Field) (b : Reg)
  /-- PR, `a` ignored -/ | movePc (a : Field) (b : Reg)
  /-- JC, `b` is the condition field -/ | jump (a : Reg) (b : Field)
  /-- JO, `b` is the condition field -/ | jr (a b : Field)
  /-- N0, both ignored -/ | nop (a b : Field)
  /-- MX -/ | loadR14rm (a b : Reg)
  /-- MX -/ | loadR15rm (a b : Reg)
  /-- MX -/ | storeR14rm (a b : Reg)
  /-- MX -/ | storeR15rm (a b : Reg)
  /-- R1, `a` ignored -/ | sat24 (a : Field) (b : Reg)
  /-- PK, selector 0 -/ | pack (b : Reg)
  /-- PK, selector 1 -/ | unpack (b : Reg)
  /-- the explicit UNKNOWN result of decoding (30_encoding R112), with the three fields of the word (R116) -/
  | unknown (op : Opcode) (a b : Field)
  deriving DecidableEq, Repr

/-- What an opcode map must hold for this instruction to be encodable (30_encoding R110, R111). -/
def Instr.kind : Instr → OpKind
  | .add _ _ => .add
  | .addc _ _ => .addc
  | .addq _ _ => .addq
  | .addqt _ _ => .addqt
  | .sub _ _ => .sub
  | .subc _ _ => .subc
  | .subq _ _ => .subq
  | .subqt _ _ => .subqt
  | .neg _ _ => .neg
  | .and _ _ => .and
  | .or _ _ => .or
  | .xor _ _ => .xor
  | .not _ _ => .not
  | .btst _ _ => .btst
  | .bset _ _ => .bset
  | .bclr _ _ => .bclr
  | .mult _ _ => .mult
  | .imult _ _ => .imult
  | .div _ _ => .div
  | .abs _ _ => .abs
  | .sh _ _ => .sh
  | .shlq _ _ => .shlq
  | .shrq _ _ => .shrq
  | .sha _ _ => .sha
  | .sharq _ _ => .sharq
  | .ror _ _ => .ror
  | .rorq _ _ => .rorq
  | .cmp _ _ => .cmp
  | .cmpq _ _ => .cmpq
  | .sat8 _ _ => .sat8
  | .sat16 _ _ => .sat16
  | .move _ _ => .move
  | .moveq _ _ => .moveq
  | .moveta _ _ => .moveta
  | .movefa _ _ => .movefa
  | .movei _ _ _ => .movei
  | .loadb _ _ => .loadb
  | .loadw _ _ => .loadw
  | .load _ _ => .load
  | .loadR14n _ _ => .loadR14n
  | .loadR15n _ _ => .loadR15n
  | .storeb _ _ => .storeb
  | .storew _ _ => .storew
  | .store _ _ => .store
  | .storeR14n _ _ => .storeR14n
  | .storeR15n _ _ => .storeR15n
  | .movePc _ _ => .movePc
  | .jump _ _ => .jump
  | .jr _ _ => .jr
  | .nop _ _ => .nop
  | .loadR14rm _ _ => .loadR14rm
  | .loadR15rm _ _ => .loadR15rm
  | .storeR14rm _ _ => .storeR14rm
  | .storeR15rm _ _ => .storeR15rm
  | .sat24 _ _ => .sat24
  | .pack _ => .packUnpack
  | .unpack _ => .packUnpack
  | .unknown _ _ _ => .unknown

/-- The length of an instruction in bytes (30_encoding R100, R103). -/
def Instr.width (i : Instr) : Nat := i.kind.width

/-- Is the instruction a `jump` or a `jr`, taken or not (45_control R224)? -/
def Instr.isBranch (i : Instr) : Bool := i.kind.isBranch

/-- The conditions a value of the condition field may name (45_control R228): the 15 that can match, `never`, which has
a name and never matches, and `unnamed`, the disassembler's error token (30_encoding R118). -/
inductive Cond where
  | t | nz | z | nc | nc_nz | nc_z | c | c_nz | c_z
  | nn | nn_nz | nn_z | n | n_nz | n_z
  | never | unnamed
  deriving DecidableEq, Repr

end Sys2Proof
end

