-- ==== Sys2Proof/Config.lean ====
section
/-! DEFINITION. The implementation parameters of 00_scope R4. What R4 marks "document" is a constant here (or the
width of a type of Word.lean); what R4 marks as a decision or OPEN is a field of `Config`, so that a claim can name it
or quantify over it. The default values stand in Machine/Defaults.lean. IMAGE_MAGIC, which is OPEN without a default,
is an argument of the image load (Machine/HostOps.lean). Log entries 5, 15 and 23. -/

namespace Sys2Proof

/-- The operating mode (10_state R33). -/
inductive Mode where
  | gpu
  | dsp
  deriving DecidableEq, Repr

/-- MOVEI_WORD_ORDER (00_scope R4, 30_encoding R104). -/
inductive WordOrder where
  | highFirst
  | lowFirst
  deriving DecidableEq, Repr

/-- OPCODE_MAP (00_scope R4, 30_encoding R110): what each of the 64 opcode values selects. -/
abbrev OpcodeMap := Vector OpKind 64

/-- COND_TABLE (00_scope R4, 45_control R228): what each of the 32 values of the condition field names. -/
abbrev CondTable := Vector Cond 32

/-- The parameters that exist once per mode (00_scope R4). -/
structure ModeParams where
  /-- FLAGS_ADDR[mode] -/
  flagsAddr : Long
  /-- CTRL_ADDR[mode] -/
  ctrlAddr : Long
  /-- IRAM_BASE[mode] -/
  iramBase : Long
  /-- the value of the flags register of the mode at power-on, which the spec leaves open (93 U1; log entry 23) -/
  flagsAtPowerOn : Long
  /-- the value of the control register of the mode at power-on, as open (93 U1; log entry 23) -/
  ctrlAtPowerOn : Long
  deriving DecidableEq, Repr

/-- The parameters of 00_scope R4, and the values of the memory-mapped registers at power-on, which 93 U1 lets a model take
as a parameter (log entry 23). -/
structure Config where
  /-- MEM_SIZE -/
  memSize : Nat
  /-- SUPPRESS_ALIGN_WARN -/
  suppressAlignWarn : Bool
  /-- the GPU-mode addresses -/
  gpu : ModeParams
  /-- the DSP-mode addresses -/
  dsp : ModeParams
  /-- HIDATA_ADDR -/
  hiDataAddr : Long
  /-- REMAIN_ADDR -/
  remainAddr : Long
  /-- ENABLE_BIT -/
  enableBit : Fin 32
  /-- MOVEI_WORD_ORDER -/
  moveiWordOrder : WordOrder
  /-- OPCODE_MAP -/
  opcodeMap : OpcodeMap
  /-- COND_TABLE -/
  condTable : CondTable
  /-- INITIAL_MODE -/
  initialMode : Mode
  /-- the value of the high-data register at power-on (93 U1; log entry 23) -/
  hiDataAtPowerOn : Long
  /-- the value of the remainder register at power-on (93 U1; log entry 23) -/
  remainAtPowerOn : Long
  deriving DecidableEq, Repr

/-- The parameters that a mode selects (10_state R33). -/
def Config.params (c : Config) : Mode → ModeParams
  | .gpu => c.gpu
  | .dsp => c.dsp

/-- IRAM_SIZE[mode]: the document fixes both sizes (00_scope R4, 10_state R38, 93 U16). -/
def Config.iramSize : Mode → Nat
  | .gpu => 4096
  | .dsp => 8192

/-- BANK_BIT: the bit of the flags register that selects the bank (00_scope R4, 10_state R34). -/
def Config.bankBit : Nat := 14

/-- OOB_SENTINEL: what an out-of-bounds read returns (00_scope R4, 20_memory R70). -/
def Config.oobSentinel : Long := 0xFFFFFFFF

end Sys2Proof
end

