-- ==== Sys2Proof/WellFormed.lean ====
section
/-! DEFINITION. The checks on terms: which instructions an opcode map can encode, which opcode maps name every
instruction once, and which parameters 00_scope R5 admits. -/

namespace Sys2Proof

/-- The opcode field an UNKNOWN carries (30_encoding R116); the other instructions take theirs from the map. -/
def Instr.rawOpcode : Instr → Option Opcode
  | .unknown op _ _ => some op
  | _ => none

/-- What the map selects for an opcode value (30_encoding R110). -/
def OpcodeMap.select (m : OpcodeMap) (op : Opcode) : OpKind := m[op.toNat]'op.isLt

/-- An instruction is well-formed under an opcode map when the map has an opcode for it; an UNKNOWN, when its fields are
ones the map leaves unrecognised (30_encoding R111, R112). Every value of an operand field is legal (R114, R118). -/
def Instr.wf (m : OpcodeMap) (i : Instr) : Bool :=
  match i with
  | .unknown op a _ =>
    match m.select op with
    | .unknown => true
    | .packUnpack => decide (2 ≤ a.toNat)
    | _ => false
  | i => m.toList.contains i.kind

/-- The opcode map gives no two opcode values the same instruction (30_encoding R110). -/
def OpcodeMap.noRepeats (m : OpcodeMap) : Bool :=
  decide (m.toList.filter (fun k => decide (k ≠ .unknown))).Nodup

/-- Is `x` a multiple of 4? -/
def Long.isAligned4 (x : Long) : Bool := x.toNat % 4 == 0

/-- Do the 4-byte ranges at `x` and `y` share no byte? -/
def Long.disjoint4 (x y : Long) : Bool := decide (x.toNat + 4 ≤ y.toNat) || decide (y.toNat + 4 ≤ x.toNat)

/-- The addresses of the six memory-mapped registers (90_conflicts C2, 20_memory R80). -/
def Config.registerAddrs (c : Config) : List Long :=
  [c.gpu.flagsAddr, c.gpu.ctrlAddr, c.dsp.flagsAddr, c.dsp.ctrlAddr, c.hiDataAddr, c.remainAddr]

/-- Does the long at `x` share no byte with the window of the mode (00_scope R5)? -/
def Config.windowAvoids (c : Config) (m : Mode) (x : Long) : Bool :=
  decide (x.toNat + 4 ≤ (c.params m).iramBase.toNat)
    || decide ((c.params m).iramBase.toNat + Config.iramSize m ≤ x.toNat)

/-- Are the longs pairwise disjoint (00_scope R5)? -/
def pairwiseDisjoint4 : List Long → Bool
  | [] => true
  | x :: xs => xs.all (Long.disjoint4 x) && pairwiseDisjoint4 xs

/-- The constraints of 00_scope R5 on the address parameters. -/
def Config.wf (c : Config) : Bool :=
  (c.registerAddrs ++ [c.gpu.iramBase, c.dsp.iramBase]).all Long.isAligned4
  && c.registerAddrs.all (fun x => decide (x.toNat + 4 ≤ c.memSize))
  && decide (c.gpu.iramBase.toNat + Config.iramSize .gpu ≤ c.memSize)
  && decide (c.dsp.iramBase.toNat + Config.iramSize .dsp ≤ c.memSize)
  && pairwiseDisjoint4 c.registerAddrs
  && c.registerAddrs.all (c.windowAvoids .gpu)
  && c.registerAddrs.all (c.windowAvoids .dsp)
  && decide (c.memSize ≤ 0x80000000)
  && c.memSize % 4 == 0

end Sys2Proof
end

