-- ==== Sys2Proof/Decode.lean ====
section
/-! DEFINITION. The decoder, total on any bytes, and after it the encoder (30_encoding). A word is split into its three
fields (R101); the opcode map says what the opcode selects (R110); `movei` takes two extension words (R104). -/

namespace Sys2Proof

/-- The default OPCODE_MAP, opcode values 0 to 63 in order (30_encoding R110, 92 D2; log entry 7). -/
def defaultOpcodeMap : OpcodeMap := #v[
  .add, .addc, .addq, .addqt, .sub, .subc, .subq, .subqt,
  .neg, .and, .or, .xor, .not, .btst, .bset, .bclr,
  .mult, .imult, .unknown, .unknown, .unknown, .div, .abs, .sh,
  .shlq, .shrq, .sha, .sharq, .ror, .rorq, .cmp, .cmpq,
  .sat8, .sat16, .move, .moveq, .moveta, .movefa, .movei, .loadb,
  .loadw, .load, .unknown, .loadR14n, .loadR15n, .storeb, .storew, .store,
  .unknown, .storeR14n, .storeR15n, .movePc, .jump, .jr, .unknown, .unknown,
  .unknown, .nop, .loadR14rm, .loadR15rm, .storeR14rm, .storeR15rm, .sat24, .packUnpack]

/-- Field `op`, bits 15 to 10 (30_encoding R101). -/
def opField (w : Word) : Opcode := w.extractLsb' 10 6

/-- Field `A`, bits 9 to 5 (30_encoding R101). -/
def aField (w : Word) : Field := w.extractLsb' 5 5

/-- Field `B`, bits 4 to 0 (30_encoding R101). -/
def bField (w : Word) : Field := w.extractLsb' 0 5

/-- The word with the three fields given (30_encoding R101, R116). -/
def wordOfFields (op : Opcode) (a b : Field) : Word := op ++ a ++ b

/-- The instruction of a kind with the fields of its word (30_encoding R102, R110 to R112). `imm` is used by `movei`
alone. -/
def Instr.ofKind (k : OpKind) (op : Opcode) (a b : Field) (imm : Long) : Instr :=
  match k with
  | .add => .add a b
  | .addc => .addc a b
  | .addq => .addq a b
  | .addqt => .addqt a b
  | .sub => .sub a b
  | .subc => .subc a b
  | .subq => .subq a b
  | .subqt => .subqt a b
  | .neg => .neg a b
  | .and => .and a b
  | .or => .or a b
  | .xor => .xor a b
  | .not => .not a b
  | .btst => .btst a b
  | .bset => .bset a b
  | .bclr => .bclr a b
  | .mult => .mult a b
  | .imult => .imult a b
  | .div => .div a b
  | .abs => .abs a b
  | .sh => .sh a b
  | .shlq => .shlq a b
  | .shrq => .shrq a b
  | .sha => .sha a b
  | .sharq => .sharq a b
  | .ror => .ror a b
  | .rorq => .rorq a b
  | .cmp => .cmp a b
  | .cmpq => .cmpq a b
  | .sat8 => .sat8 a b
  | .sat16 => .sat16 a b
  | .move => .move a b
  | .moveq => .moveq a b
  | .moveta => .moveta a b
  | .movefa => .movefa a b
  | .movei => .movei a b imm
  | .loadb => .loadb a b
  | .loadw => .loadw a b
  | .load => .load a b
  | .loadR14n => .loadR14n a b
  | .loadR15n => .loadR15n a b
  | .storeb => .storeb a b
  | .storew => .storew a b
  | .store => .store a b
  | .storeR14n => .storeR14n a b
  | .storeR15n => .storeR15n a b
  | .movePc => .movePc a b
  | .jump => .jump a b
  | .jr => .jr a b
  | .nop => .nop a b
  | .loadR14rm => .loadR14rm a b
  | .loadR15rm => .loadR15rm a b
  | .storeR14rm => .storeR14rm a b
  | .storeR15rm => .storeR15rm a b
  | .sat24 => .sat24 a b
  | .packUnpack => if a = 0 then .pack b else if a = 1 then .unpack b else .unknown op a b
  | .unknown => .unknown op a b

/-- What the opcode of a word selects (30_encoding R110). -/
def kindOfWord (m : OpcodeMap) (w : Word) : OpKind := m.select (opField w)

/-- The instruction a word decodes to, given the immediate its extension words assemble to if it has any
(30_encoding R103, R116). -/
def decodeWord (m : OpcodeMap) (w : Word) (imm : Long) : Instr :=
  Instr.ofKind (kindOfWord m w) (opField w) (aField w) (bField w) imm

/-- The 32-bit immediate of `movei` from its first and second extension word (30_encoding R104). -/
def immediate (order : WordOrder) (w1 w2 : Word) : Long :=
  match order with
  | .highFirst => w1 ++ w2
  | .lowFirst => w2 ++ w1

/-- Why bytes decode to no instruction: there are too few of them. No encoding is rejected (30_encoding R115). -/
inductive DecodeError where
  /-- fewer than two bytes: no instruction word -/
  | truncatedWord
  /-- a `movei` with fewer than four bytes after its opcode word -/
  | truncatedImmediate
  deriving DecidableEq, Repr

/-- The instruction that a sequence of bytes starts with, and the bytes after it. Words are big-endian
(30_encoding R100, 20_memory R62). -/
def decode (m : OpcodeMap) (order : WordOrder) : List Byte → Except DecodeError (Instr × List Byte)
  | b0 :: b1 :: rest =>
    match kindOfWord m (b0 ++ b1) with
    | .movei =>
      match rest with
      | c0 :: c1 :: d0 :: d1 :: rest' => .ok (decodeWord m (b0 ++ b1) (immediate order (c0 ++ c1) (d0 ++ d1)), rest')
      | _ => .error .truncatedImmediate
    | _ => .ok (decodeWord m (b0 ++ b1) 0, rest)
  | _ => .error .truncatedWord

/-- The two bytes of a word, most significant first (20_memory R62). -/
def bytesOfWord (w : Word) : List Byte := [w.extractLsb' 8 8, w.extractLsb' 0 8]

/-- Field `A` of an instruction (30_encoding R102, R111). -/
def Instr.fieldA : Instr → Field
  | .add a _ | .addc a _ | .addq a _ | .addqt a _ | .sub a _ | .subc a _ | .subq a _ | .subqt a _ | .neg a _ => a
  | .and a _ | .or a _ | .xor a _ | .not a _ | .btst a _ | .bset a _ | .bclr a _ => a
  | .mult a _ | .imult a _ | .div a _ | .abs a _ => a
  | .sh a _ | .shlq a _ | .shrq a _ | .sha a _ | .sharq a _ | .ror a _ | .rorq a _ => a
  | .cmp a _ | .cmpq a _ | .sat8 a _ | .sat16 a _ | .sat24 a _ => a
  | .move a _ | .moveq a _ | .moveta a _ | .movefa a _ | .movei a _ _ | .movePc a _ => a
  | .loadb a _ | .loadw a _ | .load a _ | .loadR14n a _ | .loadR15n a _ | .loadR14rm a _ | .loadR15rm a _ => a
  | .storeb a _ | .storew a _ | .store a _ | .storeR14n a _ | .storeR15n a _ | .storeR14rm a _ | .storeR15rm a _ => a
  | .jump a _ | .jr a _ | .nop a _ => a
  | .pack _ => 0
  | .unpack _ => 1
  | .unknown _ a _ => a

/-- Field `B` of an instruction (30_encoding R102). -/
def Instr.fieldB : Instr → Field
  | .add _ b | .addc _ b | .addq _ b | .addqt _ b | .sub _ b | .subc _ b | .subq _ b | .subqt _ b | .neg _ b => b
  | .and _ b | .or _ b | .xor _ b | .not _ b | .btst _ b | .bset _ b | .bclr _ b => b
  | .mult _ b | .imult _ b | .div _ b | .abs _ b => b
  | .sh _ b | .shlq _ b | .shrq _ b | .sha _ b | .sharq _ b | .ror _ b | .rorq _ b => b
  | .cmp _ b | .cmpq _ b | .sat8 _ b | .sat16 _ b | .sat24 _ b => b
  | .move _ b | .moveq _ b | .moveta _ b | .movefa _ b | .movei _ b _ | .movePc _ b => b
  | .loadb _ b | .loadw _ b | .load _ b | .loadR14n _ b | .loadR15n _ b | .loadR14rm _ b | .loadR15rm _ b => b
  | .storeb _ b | .storew _ b | .store _ b | .storeR14n _ b | .storeR15n _ b | .storeR14rm _ b | .storeR15rm _ b => b
  | .jump _ b | .jr _ b | .nop _ b => b
  | .pack b => b
  | .unpack b => b
  | .unknown _ _ b => b

/-- The opcode value the map gives an instruction: the first that selects its kind; an UNKNOWN carries its own
(30_encoding R110, R116). -/
def Instr.opcode (m : OpcodeMap) (i : Instr) : Opcode :=
  match i.rawOpcode with
  | some op => op
  | none => BitVec.ofNat 6 (m.toList.idxOf i.kind)

/-- The first word of an instruction, `op * 1024 + A * 32 + B` (30_encoding R101, R116). -/
def Instr.firstWord (m : OpcodeMap) (i : Instr) : Word := wordOfFields (i.opcode m) i.fieldA i.fieldB

/-- The extension words of an instruction, in memory order (30_encoding R104). -/
def Instr.extensionWords (order : WordOrder) : Instr → List Word
  | .movei _ _ imm =>
    match order with
    | .highFirst => [imm.extractLsb' 16 16, imm.extractLsb' 0 16]
    | .lowFirst => [imm.extractLsb' 0 16, imm.extractLsb' 16 16]
  | _ => []

/-- The words of an instruction, in memory order (30_encoding R100, R104, R116). -/
def encode (m : OpcodeMap) (order : WordOrder) (i : Instr) : List Word :=
  i.firstWord m :: i.extensionWords order

/-- The bytes of a list of words, each big-endian, the first word at the lowest address (20_memory R62). -/
def bytesOfWords (ws : List Word) : List Byte := ws.flatMap bytesOfWord

/-- The three words that `w` numbers, bit 0 the least significant bit of the first; bits from `nbits` on are 0. -/
def tableWords (nbits w : Nat) : List Word :=
  let v : BitVec 48 := BitVec.ofNat 48 (w % 2 ^ nbits)
  [v.extractLsb' 0 16, v.extractLsb' 16 16, v.extractLsb' 32 16]

/-- The instruction the decoder reads from an instruction of spec/opcode_table.json whose bits are `w`, under the default
parameters. -/
def decodeTableWord (nbits w : Nat) : Option Instr :=
  match decode defaultOpcodeMap .highFirst (bytesOfWords (tableWords nbits w)) with
  | .ok (i, _) => some i
  | .error _ => none

end Sys2Proof
end

