-- ==== Sys2Proof/Machine/Memory.lean ====
section
/-! DEFINITION. The byte memory (20_memory R60) as a list of the bytes that something has written, addresses strictly
rising. -/

namespace Sys2Proof.Machine

/-- The bytes of memory that have a value (10_state R39, 20_memory R60). -/
abbrev Memory := List Host.Cell

/-- What an address that is not listed reads as: nothing. The content of memory at power-on is unspecified, and "a model
should give a byte that neither the loader nor a store has written no value" (10_state R52, 93 U1). DESIGN CHOICE, safe:
log entry 1. The memory-mapped registers are listed from power-on (Machine/Defaults.lean, `powerOnMemory`; log entry 23). -/
def Memory.unlisted : Option Byte := none

/-- The byte at an address, if it has a value. -/
def Memory.read : Memory → Nat → Option Byte
  | [], _ => Memory.unlisted
  | (k, v) :: m, a => if k = a then some v else Memory.read m a

/-- Store one byte, keeping the list sorted. -/
def Memory.write : Memory → Nat → Byte → Memory
  | [], a, v => [(a, v)]
  | (k, w) :: m, a, v =>
    if a < k then (a, v) :: (k, w) :: m
    else if a = k then (a, v) :: m
    else (k, w) :: Memory.write m a v

/-- Store bytes at consecutive rising addresses. -/
def Memory.writeBytes : Memory → Nat → List Byte → Memory
  | m, _, [] => m
  | m, a, b :: bs => Memory.writeBytes (m.write a b) (a + 1) bs

/-- The canonical form: addresses strictly rise. No entry can equal what an unlisted address reads as, since that is no
value. -/
abbrev Memory.wf (m : Memory) : Prop := m.Pairwise (fun c d => c.1 < d.1)

end Sys2Proof.Machine
end

