-- ==== Sys2Proof/Machine/Defaults.lean ====
section
/-! DEFINITION. The default values of the parameters (00_scope R4), and the memory at power-on. Those of R4 that the
document does not give are of the emulated coprocessor family: PRESUMED, log entries 6 to 9. -/

namespace Sys2Proof.Machine

/-- The default COND_TABLE, condition values 0 to 31 in order (45_control R228, 92 D10; log entry 8). -/
def defaultCondTable : CondTable := #v[
  .t, .nz, .z, .unnamed, .nc, .nc_nz, .nc_z, .unnamed,
  .c, .c_nz, .c_z, .unnamed, .unnamed, .unnamed, .unnamed, .unnamed,
  .unnamed, .unnamed, .unnamed, .unnamed, .nn, .nn_nz, .nn_z, .unnamed,
  .n, .n_nz, .n_z, .unnamed, .unnamed, .unnamed, .unnamed, .never]

/-- The parameters at their default values (00_scope R4, 20_memory R80). The memory-mapped registers hold 0 at power-on:
DESIGN CHOICE, unsafe, log entry 23. -/
def defaultConfig : Config where
  memSize := 0x00F1D000
  suppressAlignWarn := false
  gpu := { flagsAddr := 0x00F02100, ctrlAddr := 0x00F02114, iramBase := 0x00F03000,
           flagsAtPowerOn := 0, ctrlAtPowerOn := 0 }
  dsp := { flagsAddr := 0x00F1A100, ctrlAddr := 0x00F1A114, iramBase := 0x00F1B000,
           flagsAtPowerOn := 0, ctrlAtPowerOn := 0 }
  hiDataAddr := 0x00F02118
  remainAddr := 0x00F0211C
  enableBit := 0
  moveiWordOrder := .highFirst
  opcodeMap := defaultOpcodeMap
  condTable := defaultCondTable
  initialMode := .gpu
  hiDataAtPowerOn := 0
  remainAtPowerOn := 0

/-- The six memory-mapped registers and what each holds at power-on (10_state R34 to R37; 93 U1). -/
def powerOnRegisters (c : Config) : List (Long × Long) :=
  [(c.gpu.flagsAddr, c.gpu.flagsAtPowerOn), (c.gpu.ctrlAddr, c.gpu.ctrlAtPowerOn),
   (c.dsp.flagsAddr, c.dsp.flagsAtPowerOn), (c.dsp.ctrlAddr, c.dsp.ctrlAtPowerOn),
   (c.hiDataAddr, c.hiDataAtPowerOn), (c.remainAddr, c.remainAtPowerOn)]

/-- A memory with a long stored at an address, big-endian (20_memory R62). -/
def Memory.withLong (m : Memory) (r : Long × Long) : Memory :=
  m.writeBytes r.1.toNat (bytesOfWords [r.2.extractLsb' 16 16, r.2.extractLsb' 0 16])

/-- The memory at power-on: the memory-mapped registers hold the values the parameters give, and no other byte has a value
(10_state R52, 93 U1; log entries 1 and 23). -/
def powerOnMemory (c : Config) : Memory := (powerOnRegisters c).foldl Memory.withLong []

end Sys2Proof.Machine
end

