-- ==== Sys2Proof/Machine/State.lean ====
section
/-! DEFINITION. The state of the machine as plain data: everything 10_state.md lists (R20 to R43), the report sequence
of 60_exceptions R260, and the parameters of 00_scope R4, which nothing writes. -/

namespace Sys2Proof.Machine

/-- A fault: the model stops where the spec gives the machine no value to go on with. -/
inductive Fault where
  /-- A data read, an instruction fetch or the write hook reads the byte at `addr`, which neither the loader nor a store
  has written. Raised by `State.readByte`. Safe: the spec leaves the byte's value open and asks for this fault (10_state
  R52, 70_reset R304, 93 U1; log entry 1). The write hook meets it in no state that a run from power-on or reset reaches,
  because the registers it reads hold a value from then on (log entry 23). -/
  | unwrittenByte (addr : Nat)
  deriving DecidableEq, Repr

/-- A refusal: the model gives no meaning. -/
inductive Refusal where
  /-- An instruction whose arm of `exec` has no meaning yet. Raised by no arm of this model. Safe. -/
  | notModelled (mnemonic : String)
  /-- The parameters break a constraint of 00_scope R5: "A model should refuse a configuration that breaks one of these".
  Raised by `step` and `hostAct`. Safe (log entry 5). -/
  | badConfiguration
  deriving DecidableEq, Repr

/-- The delay slot (10_state R30, R31): one register, not a queue. -/
structure DelaySlot where
  /-- `DS.target` -/
  target : Long
  /-- `DS.pending` -/
  pending : Bool
  deriving DecidableEq, Repr

/-- `run_state` (10_state R40). -/
inductive RunState where
  | noImage
  | idle
  | running
  deriving DecidableEq, Repr

/-- Why a run ended (60_exceptions R260, 70_reset R316). -/
inductive StopReason where
  | breakpoint
  | endOfImage
  | selfStop
  | requested
  deriving DecidableEq, Repr

/-- The host operations that the run state enables or rejects (70_reset R310). -/
inductive HostOperation where
  | loadBin
  | reset
  | step
  | skip
  | run
  | editRegister
  | setMode
  deriving DecidableEq, Repr

/-- What a host operation refused (60_exceptions R260, the row `Rejected`). -/
inductive Rejection where
  /-- an operation while running or without an image (70_reset R310) -/
  | operation (op : HostOperation)
  /-- an image too large for memory or at an odd address (70_reset R303, R311) -/
  | image
  /-- a file that cannot be read (70_reset R311) -/
  | unreadableFile
  /-- a register edit out of range or malformed (70_reset R320) -/
  | registerEdit
  /-- breakpoint text that does not parse (60_exceptions R285) -/
  | breakpointText
  deriving DecidableEq, Repr

/-- One record of the report channel (60_exceptions R260). -/
inductive Report where
  /-- the address as given, the width -/
  | alignmentWarning (addr : Long) (n : Nat)
  /-- the masked address, the width -/
  | restrictedAccess (addr : Long) (n : Nat)
  /-- the masked address, the width -/
  | outOfBounds (addr : Long) (n : Nat)
  /-- the word, its address -/
  | unknownOpcode (w : Word) (addr : Long)
  | selfStop
  /-- the offending `pc` -/
  | pcOutOfBounds (pc : Long)
  | stopped (reason : StopReason)
  | rejected (what : Rejection)
  deriving DecidableEq, Repr

/-- The state (10_state.md). INVENTORY.md, "State", gives each field's rule and reset value. -/
structure State where
  /-- the parameters of 00_scope R4; the model's own field, written by nothing (log entry 5) -/
  cfg : Config
  /-- `R[0][0..31]` (R20) -/
  regs0 : Vector Long 32
  /-- `R[1][0..31]` (R20) -/
  regs1 : Vector Long 32
  /-- the current-bank select, `false` for bank 0 and `true` for bank 1 (R21) -/
  bank : Bool
  /-- the program counter (R25) -/
  pc : Long
  /-- the flag Zero (R28) -/
  z : Bool
  /-- the flag Negative (R28) -/
  n : Bool
  /-- the flag Carry (R28) -/
  c : Bool
  /-- the delay slot (R30) -/
  ds : DelaySlot
  /-- the operating mode (R33) -/
  mode : Mode
  /-- the memory, the memory-mapped registers among it (R34 to R39) -/
  mem : Memory
  /-- `run_state` (R40) -/
  runState : RunState
  /-- `self_stop` (R40) -/
  selfStop : Bool
  /-- `stop_requested` (R40) -/
  stopRequested : Bool
  /-- `loadAddress` (R41) -/
  loadAddress : Long
  /-- `programSize`, in bytes (R41) -/
  programSize : Nat
  /-- the breakpoint set, addresses strictly rising (R42; log entry 16) -/
  breakpoints : List Long
  /-- the primary breakpoint (R42) -/
  primary : Option Long
  /-- the report sequence, oldest first (60_exceptions R260; log entry 14) -/
  reports : List Report
  deriving DecidableEq, Repr

/-- The state at power-on (10_state R52), for given parameters, among them what the memory-mapped registers hold (log entry
23). -/
def State.powerOn (cfg : Config) : State where
  cfg := cfg
  regs0 := Vector.replicate 32 0
  regs1 := Vector.replicate 32 0
  bank := false
  pc := 0
  z := false
  n := false
  c := false
  ds := { target := 0, pending := false }
  mode := cfg.initialMode
  mem := powerOnMemory cfg
  runState := .noImage
  selfStop := false
  stopRequested := false
  loadAddress := 0
  programSize := 0
  breakpoints := []
  primary := none
  reports := []

/-- The state right after reset: what 10_state R50 writes, and for what R51 leaves unchanged the power-on values of R52,
under the default parameters (log entry 10). -/
def State.reset : State where
  cfg := defaultConfig
  regs0 := Vector.replicate 32 0
  regs1 := Vector.replicate 32 0
  bank := false
  pc := 0
  z := false
  n := false
  c := false
  ds := { target := 0, pending := false }
  mode := .gpu
  mem := powerOnMemory defaultConfig
  runState := .idle
  selfStop := false
  stopRequested := false
  loadAddress := 0
  programSize := 0
  breakpoints := []
  primary := none
  reports := []

end Sys2Proof.Machine
end

