-- ==== Sys2Proof/Machine/Operands.lean ====
section
/-! DEFINITION. The readings of the 5-bit operand fields (30_encoding R105 to R109), the register accessors
(00_scope R7, 10_state R20, R21), the byte-order and alignment helpers (20_memory R62 to R64), and the 32-bit operations
that instructions share: shifts (42_shift R172), saturation, pack (46_pack). -/

namespace Sys2Proof.Machine

/-! ### Operand fields -/

/-- The quick immediate `q(f)`, 1 to 32 (30_encoding R105). -/
def quick (f : Field) : Nat := if f = 0 then 32 else f.toNat

/-- The signed immediate `sext_5(f)`, -16 to 15 (30_encoding R107). -/
def signed5 (f : Field) : Int := f.toInt

/-- The shift count of `shlq`, `32 - A` (30_encoding R108). -/
def leftCount (f : Field) : Nat := 32 - f.toNat

/-- The byte offset of the (r14+n) and (r15+n) forms, `4 * q(A)` (30_encoding R109). -/
def longOffset (f : Field) : Long := BitVec.ofNat 32 (4 * quick f)

/-- The long with the value of an integer, `trunc_32` (00_scope R6). -/
def trunc32 (v : Int) : Long := BitVec.ofInt 32 v

/-! ### Registers -/

/-- `R[k][i]` (00_scope R7, 10_state R20). -/
def State.reg (s : State) (k : Bool) (i : Reg) : Long :=
  match k with
  | false => s.regs0[i.toNat]'i.isLt
  | true => s.regs1[i.toNat]'i.isLt

/-- `R[k][i] <- v` (00_scope R7, 10_state R20). -/
def State.setReg (s : State) (k : Bool) (i : Reg) (v : Long) : State :=
  match k with
  | false => { s with regs0 := s.regs0.set i.toNat v i.isLt }
  | true => { s with regs1 := s.regs1.set i.toNat v i.isLt }

/-- `x[i]`: the register of the current bank (00_scope R7, 10_state R21). -/
def State.x (s : State) (i : Reg) : Long := s.reg s.bank i

/-- `x[i] <- v` (00_scope R7). -/
def State.setX (s : State) (i : Reg) (v : Long) : State := s.setReg s.bank i v

/-- `xo[i]`: the register of the other bank, `bank XOR 1` (00_scope R7). -/
def State.xo (s : State) (i : Reg) : Long := s.reg (!s.bank) i

/-- `xo[i] <- v` (00_scope R7). -/
def State.setXo (s : State) (i : Reg) (v : Long) : State := s.setReg (!s.bank) i v

/-! ### Widths, alignment and byte order -/

/-- The number of bytes of an access (20_memory R63). -/
def widthBytes : Width → Nat
  | .byte => 1
  | .word => 2
  | .long => 4

/-- The address masked down to natural alignment, `addr & ~(n - 1)` (20_memory R64). -/
def alignDown (w : Width) (addr : Long) : Long := addr &&& ~~~(BitVec.ofNat 32 (widthBytes w - 1))

/-- The low bytes of a value that a store of a width writes, most significant first (20_memory R62, R71). -/
def storeBytes (w : Width) (v : Long) : List Byte :=
  match w with
  | .byte => [v.extractLsb' 0 8]
  | .word => [v.extractLsb' 8 8, v.extractLsb' 0 8]
  | .long => [v.extractLsb' 24 8, v.extractLsb' 16 8, v.extractLsb' 8 8, v.extractLsb' 0 8]

/-! ### Shifts and rotates (42_shift R170, R172) -/

/-- `LSR(v, k) = floor(u(v) / 2^k)` -/
def lsr (v : Long) (k : Nat) : Long := BitVec.ofNat 32 (v.toNat / 2 ^ k)

/-- `LSL(v, k) = trunc_32(u(v) * 2^k)` -/
def lsl (v : Long) (k : Nat) : Long := BitVec.ofNat 32 (v.toNat * 2 ^ k)

/-- `ASR(v, k) = trunc_32(floor(s(v) / 2^k))` -/
def asr (v : Long) (k : Nat) : Long := trunc32 (v.toInt / (2 : Int) ^ k)

/-- `ROR(v, k)` for any integer `k`: by `k mod 32` places to the right -/
def rotr (v : Long) (k : Int) : Long :=
  lsr v (k % 32).toNat ||| lsl v ((32 - (k % 32).toNat) % 32)

/-- The amount of a register form: read as signed, and 0 outside -32 to 32 (42_shift R170). -/
def shiftAmount (v : Long) : Int := if v.toInt > 32 ∨ v.toInt < -32 then 0 else v.toInt

/-! ### Saturation, division, packing -/

/-- Clamp the signed value to `[0, hi]` (40_arithmetic R146 to R148). -/
def saturate (hi : Int) (v : Long) : Long :=
  trunc32 (if v.toInt < 0 then 0 else if v.toInt > hi then hi else v.toInt)

/-- The quotient of the unsigned divide, 0 for divisor 0 (40_arithmetic R143). -/
def divQuotient (n d : Long) : Long := if d = 0 then 0 else BitVec.ofNat 32 (n.toNat / d.toNat)

/-- The remainder of the unsigned divide, 0 for divisor 0 (40_arithmetic R143). -/
def divRemainder (n d : Long) : Long := if d = 0 then 0 else BitVec.ofNat 32 (n.toNat - (n.toNat / d.toNat) * d.toNat)

/-- What `div` writes to the remainder register: the remainder if the quotient is odd, else remainder minus divisor
(40_arithmetic R143). -/
def divAdjusted (n d : Long) : Long :=
  if (divQuotient n d).getLsbD 0 then divRemainder n d else divRemainder n d - d

/-- The result of `pack` (46_pack R250). -/
def packed (v : Long) : Long :=
  ((v >>> 10) &&& (0x0000F000 : Long)) ||| ((v >>> 5) &&& (0x00000F00 : Long)) ||| (v &&& (0x000000FF : Long))

/-- The result of `unpack` (46_pack R251). -/
def unpacked (v : Long) : Long :=
  ((v &&& (0x0000F000 : Long)) <<< 10) ||| ((v &&& (0x00000F00 : Long)) <<< 5) ||| (v &&& (0x000000FF : Long))

end Sys2Proof.Machine
end

