-- ==== Sys2Proof/Machine/Flags.lean ====
section
/-! DEFINITION. The flag computations (40_arithmetic R130, 42_shift R171) and the condition table (45_control R228). -/

namespace Sys2Proof.Machine

/-- `SetZN(res)` (40_arithmetic R130). -/
def State.setZN (s : State) (res : Long) : State := { s with z := res == 0, n := res.getLsbD 31 }

/-- `C <- c` -/
def State.setC (s : State) (c : Bool) : State := { s with c := c }

/-- The 32-bit sum of two longs and a carry in (40_arithmetic R130). -/
def sumOf (x y : Long) (cin : Bool) : Long := BitVec.ofNat 32 (x.toNat + y.toNat + cin.toNat)

/-- The carry out of bit 31 of the unsigned sum (40_arithmetic R130). -/
def carryOf (x y : Long) (cin : Bool) : Bool := decide (2 ^ 32 ≤ x.toNat + y.toNat + cin.toNat)

/-- The 32-bit difference `x - y - bin` (40_arithmetic R130). -/
def differenceOf (x y : Long) (bin : Bool) : Long := trunc32 ((x.toNat : Int) - y.toNat - bin.toNat)

/-- The borrow of the unsigned difference: set exactly when the mathematical result is negative (40_arithmetic R130). -/
def borrowOf (x y : Long) (bin : Bool) : Bool := decide (x.toNat < y.toNat + bin.toNat)

/-- Write an add's result and its three flags (40_arithmetic R131 to R133). -/
def State.addInto (s : State) (b : Reg) (y : Long) (cin : Bool) : State :=
  ((s.setX b (sumOf (s.x b) y cin)).setC (carryOf (s.x b) y cin)).setZN (sumOf (s.x b) y cin)

/-- Write a subtract's result and its three flags (40_arithmetic R135 to R137). -/
def State.subInto (s : State) (b : Reg) (y : Long) (bin : Bool) : State :=
  ((s.setX b (differenceOf (s.x b) y bin)).setC (borrowOf (s.x b) y bin)).setZN (differenceOf (s.x b) y bin)

/-- The flags of a subtract without the register write (40_arithmetic R141, R142). -/
def State.compare (s : State) (x y : Long) : State :=
  (s.setC (borrowOf x y false)).setZN (differenceOf x y false)

/-- Write a result and `Z`, `N` from it, leaving `C` (40_arithmetic R144 to R148, 41_logical R160). -/
def State.resultZN (s : State) (b : Reg) (res : Long) : State := (s.setX b res).setZN res

/-- Write a shift's result, its carry, and `Z`, `N` (42_shift R171). -/
def State.shiftInto (s : State) (b : Reg) (res : Long) (c : Bool) : State := ((s.setX b res).setC c).setZN res

/-- Does a condition hold on the flags? `never` and `unnamed` match nothing (45_control R228). -/
def condHolds (k : Cond) (z n c : Bool) : Bool :=
  match k with
  | .t => true
  | .nz => !z
  | .z => z
  | .nc => !c
  | .nc_nz => !c && !z
  | .nc_z => !c && z
  | .c => c
  | .c_nz => c && !z
  | .c_z => c && z
  | .nn => !n
  | .nn_nz => !n && !z
  | .nn_z => !n && z
  | .n => n
  | .n_nz => n && !z
  | .n_z => n && z
  | .never => false
  | .unnamed => false

/-- `CondMatch(f)` through COND_TABLE (45_control R228). -/
def State.condMatch (s : State) (f : Field) : Bool :=
  condHolds (s.cfg.condTable[f.toNat]'f.isLt) s.z s.n s.c

end Sys2Proof.Machine
end

