-- ==== Sys2Proof/Machine/Ops.lean ====
section
/-! DEFINITION. The named operations: the report channel (60_exceptions R260), the access primitives and the address
decoder (20_memory R64 to R77), reset (70_reset R300), and the delay slot with its bounds check, which is the only thing
on this machine that resembles taking an exception (45_control R224, R225; 60_exceptions R263, R270). -/

namespace Sys2Proof.Machine

/-- `report r`: append one record, nothing else (60_exceptions R260). -/
def State.report (s : State) (r : Report) : State := { s with reports := s.reports ++ [r] }

/-- `run_active` (10_state R40). -/
def State.runActive (s : State) : Bool := s.runState == .running

/-- The parameters of the current mode (10_state R33). -/
def State.params (s : State) : ModeParams := s.cfg.params s.mode

/-! ### Reading bytes -/

/-- The byte at an address of the buffer; a byte nothing has written has no value, and reading it faults
(10_state R52, 70_reset R304, 92 D35, 93 U1). -/
def State.readByte (s : State) (a : Nat) : Except Fault Byte :=
  match s.mem.read a with
  | some v => .ok v
  | none => .error (.unwrittenByte a)

/-- The word at an address, big-endian (20_memory R62). -/
def State.readWord (s : State) (a : Nat) : Except Fault Word := do
  let h ← s.readByte a
  let l ← s.readByte (a + 1)
  pure (h ++ l)

/-- The long at an address, big-endian (20_memory R62). At a register address this is `Raw32` (00_scope R7). -/
def State.readLong (s : State) (a : Nat) : Except Fault Long := do
  let b3 ← s.readByte a
  let b2 ← s.readByte (a + 1)
  let b1 ← s.readByte (a + 2)
  let b0 ← s.readByte (a + 3)
  pure (b3 ++ b2 ++ b1 ++ b0)

/-- The value of a width at an address, zero-extended to 32 bits (20_memory R70). -/
def State.readWidth (s : State) (w : Width) (a : Nat) : Except Fault Long :=
  match w with
  | .byte => do let v ← s.readByte a; pure (v.setWidth 32)
  | .word => do let v ← s.readWord a; pure (v.setWidth 32)
  | .long => s.readLong a

/-! ### The address decoder -/

/-- The bounds rule on a masked address: bit 31 set, or the operand ends beyond the buffer (20_memory R65). -/
def State.outOfBounds (s : State) (a : Long) (n : Nat) : Bool :=
  a.getLsbD 31 || decide (s.cfg.memSize < a.toNat + n)

/-- `InWindow(a)`: is the masked address in the internal-RAM window of the current mode (20_memory R74)? -/
def State.inWindow (s : State) (a : Long) : Bool :=
  decide (s.params.iramBase.toNat ≤ a.toNat) && decide (a.toNat < s.params.iramBase.toNat + Config.iramSize s.mode)

/-- The classes of 20_memory R75. -/
inductive AddressClass where
  | outOfBounds
  | internalRam
  | flagsRegister
  | controlRegister
  | remainderRegister
  | highDataRegister
  | plain
  deriving DecidableEq, Repr

/-- Do the `n` bytes at `a` overlap the long at `r` (20_memory R75)? -/
def overlapsLong (a : Long) (n : Nat) (r : Long) : Bool :=
  decide (a.toNat < r.toNat + 4) && decide (r.toNat < a.toNat + n)

/-- What the address decoder distinguishes for a masked address and a width, in the current mode (20_memory R75). Only
the first two classes change an access; the write hook acts after every successful write whatever the class. -/
def State.addressClass (s : State) (a : Long) (n : Nat) : AddressClass :=
  if s.outOfBounds a n then .outOfBounds
  else if s.inWindow a then .internalRam
  else if overlapsLong a n s.params.flagsAddr then .flagsRegister
  else if overlapsLong a n s.params.ctrlAddr then .controlRegister
  else if a = s.cfg.remainAddr then .remainderRegister
  else if a = s.cfg.hiDataAddr then .highDataRegister
  else .plain

/-- The advisory report of a misaligned access (20_memory R64). -/
def State.noteAlignment (s : State) (w : Width) (addr : Long) : State :=
  if alignDown w addr ≠ addr ∧ s.cfg.suppressAlignWarn = false
  then s.report (.alignmentWarning addr (widthBytes w)) else s

/-- The advisory report of a byte or word access in the window; `a` is the masked address (20_memory R74). -/
def State.noteRestricted (s : State) (w : Width) (a : Long) : State :=
  if w ≠ .long ∧ s.addressClass a (widthBytes w) = .internalRam
  then s.report (.restrictedAccess a (widthBytes w)) else s

/-! ### The access primitives -/

/-- `MemRead(addr, n)` (20_memory R70). -/
def State.memRead (s : State) (w : Width) (addr : Long) : Except Fault (Long × State) :=
  let a := alignDown w addr
  let s := s.noteAlignment w addr
  if s.addressClass a (widthBytes w) = .outOfBounds then
    .ok (Config.oobSentinel, s.report (.outOfBounds a (widthBytes w)))
  else
    let s := s.noteRestricted w a
    do
      let v ← s.readWidth w a.toNat
      pure (v, s)

/-- `SelfStopCheck()` (20_memory R77). -/
def State.selfStopCheck (s : State) : Except Fault State :=
  if s.runActive then do
    let v ← s.readLong s.params.ctrlAddr.toNat
    if v.getLsbD s.cfg.enableBit then pure s
    else pure (({ s with selfStop := true } : State).report .selfStop)
  else pure s

/-- `WriteHook()` (20_memory R76). -/
def State.writeHook (s : State) : Except Fault State := do
  let v ← s.readLong s.params.flagsAddr.toNat
  ({ s with bank := v.getLsbD Config.bankBit } : State).selfStopCheck

/-- The bytes of a successful write put into memory (20_memory R71). -/
def State.putBytes (s : State) (a : Nat) (bs : List Byte) : State := { s with mem := s.mem.writeBytes a bs }

/-- `MemWrite(addr, n, v)` (20_memory R71). -/
def State.memWrite (s : State) (w : Width) (addr : Long) (v : Long) : Except Fault State :=
  let a := alignDown w addr
  let s := s.noteAlignment w addr
  if s.addressClass a (widthBytes w) = .outOfBounds then .ok (s.report (.outOfBounds a (widthBytes w)))
  else ((s.noteRestricted w a).putBytes a.toNat (storeBytes w v)).writeHook

/-- `Fetch(addr)`: no window classification; out of bounds gives the low 16 bits of the sentinel (20_memory R72). -/
def State.fetch (s : State) (addr : Long) : Except Fault (Word × State) :=
  let a := alignDown .word addr
  let s := s.noteAlignment .word addr
  if s.outOfBounds a 2 then .ok (Config.oobSentinel.extractLsb' 0 16, s.report (.outOfBounds a 2))
  else do
    let v ← s.readWord a.toNat
    pure (v, s)

/-! ### Reset -/

/-- `Reset()` (70_reset R300, 10_state R50, R51). -/
def State.resetCore (s : State) : State :=
  { s with
    regs0 := Vector.replicate 32 0
    regs1 := Vector.replicate 32 0
    z := false
    n := false
    c := false
    pc := s.loadAddress
    ds := { target := 0, pending := false }
    runState := .idle
    selfStop := false
    stopRequested := false }

/-! ### The delay slot -/

/-- What a branch whose condition matches does: record the target (45_control R226, R227; 10_state R31). -/
def State.setDelaySlot (s : State) (target : Long) : State := { s with ds := { target := target, pending := true } }

/-- The bounds check of `pc` after a commit: report and full reset if out of bounds (45_control R225, 60_exceptions
R263). -/
def State.checkPc (s : State) : State :=
  if s.outOfBounds s.pc 2 then (s.report (.pcOutOfBounds s.pc)).resetCore else s

/-- The delay-slot commit after an executed instruction that is (`isBranch`) or is not one of the two branch opcodes
(45_control R224). -/
def State.commitDelaySlot (s : State) (isBranch : Bool) : State :=
  if isBranch = false ∧ s.ds.pending = true then
    ({ s with pc := s.ds.target, ds := { s.ds with pending := false } } : State).checkPc
  else s

/-! ### Outcomes -/

/-- The outcome of an instruction that can read or write memory. -/
def outcomeOf (r : Except Fault State) : Host.Outcome State Fault Refusal :=
  match r with
  | .ok s => .next s
  | .error f => .fault f

/-- A load of a width from an effective address into `x[b]` (43_load_store R199). -/
def State.loadInto (s : State) (w : Width) (ea : Long) (b : Reg) : Host.Outcome State Fault Refusal :=
  outcomeOf (do
    let (v, s') ← s.memRead w ea
    pure (s'.setX b v))

/-- A store of a width of `x[b]` to an effective address (43_load_store R199). -/
def State.storeFrom (s : State) (w : Width) (ea : Long) (b : Reg) : Host.Outcome State Fault Refusal :=
  outcomeOf (s.memWrite w ea (s.x b))

end Sys2Proof.Machine
end

