-- ==== Sys2Proof/Machine/Arithmetic.lean ====
section
/-! DEFINITION. The meanings of the arithmetic instructions (40_arithmetic). Each is the instruction's own rule: `pc` has
been advanced before it and the delay slot is committed after it (Machine/Cycle.lean). -/

namespace Sys2Proof.Machine

/-- `add rM,rN` (40_arithmetic R131) -/
def execAdd (a b : Reg) (s : State) : Host.Outcome State Fault Refusal := .next (s.addInto b (s.x a) false)

/-- `addc rM,rN` (40_arithmetic R132) -/
def execAddc (a b : Reg) (s : State) : Host.Outcome State Fault Refusal := .next (s.addInto b (s.x a) s.c)

/-- `addq #n,rN` (40_arithmetic R133) -/
def execAddq (a : Field) (b : Reg) (s : State) : Host.Outcome State Fault Refusal :=
  .next (s.addInto b (BitVec.ofNat 32 (quick a)) false)

/-- `addqt #n,rN`: no flag is written (40_arithmetic R134) -/
def execAddqt (a : Field) (b : Reg) (s : State) : Host.Outcome State Fault Refusal :=
  .next (s.setX b (sumOf (s.x b) (BitVec.ofNat 32 (quick a)) false))

/-- `sub rM,rN` (40_arithmetic R135) -/
def execSub (a b : Reg) (s : State) : Host.Outcome State Fault Refusal := .next (s.subInto b (s.x a) false)

/-- `subc rM,rN` (40_arithmetic R136) -/
def execSubc (a b : Reg) (s : State) : Host.Outcome State Fault Refusal := .next (s.subInto b (s.x a) s.c)

/-- `subq #n,rN` (40_arithmetic R137) -/
def execSubq (a : Field) (b : Reg) (s : State) : Host.Outcome State Fault Refusal :=
  .next (s.subInto b (BitVec.ofNat 32 (quick a)) false)

/-- `subqt #n,rN`: no flag is written (40_arithmetic R138) -/
def execSubqt (a : Field) (b : Reg) (s : State) : Host.Outcome State Fault Refusal :=
  .next (s.setX b (differenceOf (s.x b) (BitVec.ofNat 32 (quick a)) false))

/-- `neg rN`: `0 - x[B]`; field `A` is ignored (40_arithmetic R139) -/
def execNeg (_a : Field) (b : Reg) (s : State) : Host.Outcome State Fault Refusal :=
  .next ((s.setC (borrowOf 0 (s.x b) false)).resultZN b (differenceOf 0 (s.x b) false))

/-- `abs rN`: `C` is the old sign; field `A` is ignored (40_arithmetic R140) -/
def execAbs (_a : Field) (b : Reg) (s : State) : Host.Outcome State Fault Refusal :=
  .next ((s.setC ((s.x b).getLsbD 31)).resultZN b
    (if (s.x b).getLsbD 31 then differenceOf 0 (s.x b) false else s.x b))

/-- `cmp rM,rN` (40_arithmetic R141) -/
def execCmp (a b : Reg) (s : State) : Host.Outcome State Fault Refusal := .next (s.compare (s.x b) (s.x a))

/-- `cmpq #n,rN` (40_arithmetic R142) -/
def execCmpq (a : Field) (b : Reg) (s : State) : Host.Outcome State Fault Refusal :=
  .next (s.compare (s.x b) (trunc32 (signed5 a)))

/-- `div rM,rN`: in GPU mode the remainder register is written through `MemWrite`, hook included; in DSP mode nothing is
written to memory; no flag is written (40_arithmetic R143) -/
def execDiv (a b : Reg) (s : State) : Host.Outcome State Fault Refusal :=
  match s.mode with
  | .gpu =>
    outcomeOf ((s.setX b (divQuotient (s.x b) (s.x a))).memWrite .long s.cfg.remainAddr (divAdjusted (s.x b) (s.x a)))
  | .dsp => .next (s.setX b (divQuotient (s.x b) (s.x a)))

/-- `mult rM,rN`: unsigned 16 by 16 (40_arithmetic R144) -/
def execMult (a b : Reg) (s : State) : Host.Outcome State Fault Refusal :=
  .next (s.resultZN b (BitVec.ofNat 32 (((s.x b).setWidth 16).toNat * ((s.x a).setWidth 16).toNat)))

/-- `imult rM,rN`: signed 16 by 16 (40_arithmetic R145) -/
def execImult (a b : Reg) (s : State) : Host.Outcome State Fault Refusal :=
  .next (s.resultZN b (trunc32 (((s.x b).setWidth 16).toInt * ((s.x a).setWidth 16).toInt)))

/-- `sat8 rN`; field `A` is ignored (40_arithmetic R146) -/
def execSat8 (_a : Field) (b : Reg) (s : State) : Host.Outcome State Fault Refusal :=
  .next (s.resultZN b (saturate 255 (s.x b)))

/-- `sat16 rN`; field `A` is ignored (40_arithmetic R147) -/
def execSat16 (_a : Field) (b : Reg) (s : State) : Host.Outcome State Fault Refusal :=
  .next (s.resultZN b (saturate 65535 (s.x b)))

/-- `sat24 rN`; field `A` is ignored (40_arithmetic R148) -/
def execSat24 (_a : Field) (b : Reg) (s : State) : Host.Outcome State Fault Refusal :=
  .next (s.resultZN b (saturate 16777215 (s.x b)))

end Sys2Proof.Machine
end

