-- ==== Sys2Proof/Machine/Control.lean ====
section
/-! DEFINITION. The meanings of `jump`, `jr`, `nop` and an UNKNOWN word (45_control). A taken branch writes the delay slot
and not `pc` (10_state R26). -/

namespace Sys2Proof.Machine

/-- `jump cc,(rM)`: bit 0 of the target is cleared (45_control R226) -/
def execJump (a : Reg) (b : Field) (s : State) : Host.Outcome State Fault Refusal :=
  .next (if s.condMatch b then s.setDelaySlot (s.x a &&& 0xFFFFFFFE) else s)

/-- `jr cc,n`: relative to the advanced `pc` (45_control R227) -/
def execJr (a b : Field) (s : State) : Host.Outcome State Fault Refusal :=
  .next (if s.condMatch b then s.setDelaySlot (s.pc + trunc32 (2 * signed5 a)) else s)

/-- `nop`; both fields are ignored (45_control R229) -/
def execNop (_a _b : Field) (s : State) : Host.Outcome State Fault Refusal := .next s

/-- An UNKNOWN word: `report UnknownOpcode(w, address of the word)` and nothing else (45_control R230; log entry 3) -/
def execUnknown (op : Opcode) (a b : Field) (s : State) : Host.Outcome State Fault Refusal :=
  .next (s.report (.unknownOpcode (wordOfFields op a b) (s.pc - 2)))

end Sys2Proof.Machine
end

