-- ==== Sys2Proof/Machine/LoadStore.lean ====
section
/-! DEFINITION. The meanings of the load and store instructions (43_load_store). Effective addresses wrap modulo 2^32,
operands are read before the access, no base register changes, loads zero-extend, stores truncate, no flag is written
(R199). -/

namespace Sys2Proof.Machine

/-- `base + 4 * q(A)` (43_load_store R188, R189, R195, R196) -/
def State.offsetAddr (s : State) (base : Reg) (a : Field) : Long := s.x base + longOffset a

/-- `base + x[A]` (43_load_store R190, R191, R197, R198) -/
def State.indexAddr (s : State) (base : Reg) (a : Reg) : Long := s.x base + s.x a

/-- `loadb (rM),rN` (43_load_store R185) -/
def execLoadb (a b : Reg) (s : State) : Host.Outcome State Fault Refusal := s.loadInto .byte (s.x a) b

/-- `loadw (rM),rN` (43_load_store R186) -/
def execLoadw (a b : Reg) (s : State) : Host.Outcome State Fault Refusal := s.loadInto .word (s.x a) b

/-- `load (rM),rN` (43_load_store R187) -/
def execLoad (a b : Reg) (s : State) : Host.Outcome State Fault Refusal := s.loadInto .long (s.x a) b

/-- `load (r14+n),rN` (43_load_store R188) -/
def execLoadR14n (a : Field) (b : Reg) (s : State) : Host.Outcome State Fault Refusal :=
  s.loadInto .long (s.offsetAddr 14 a) b

/-- `load (r14+rM),rN` (43_load_store R190) -/
def execLoadR14rm (a b : Reg) (s : State) : Host.Outcome State Fault Refusal :=
  s.loadInto .long (s.indexAddr 14 a) b

/-- `load (r15+n),rN` (43_load_store R189) -/
def execLoadR15n (a : Field) (b : Reg) (s : State) : Host.Outcome State Fault Refusal :=
  s.loadInto .long (s.offsetAddr 15 a) b

/-- `load (r15+rM),rN` (43_load_store R191) -/
def execLoadR15rm (a b : Reg) (s : State) : Host.Outcome State Fault Refusal :=
  s.loadInto .long (s.indexAddr 15 a) b

/-- `storeb rN,(rM)` (43_load_store R192) -/
def execStoreb (a b : Reg) (s : State) : Host.Outcome State Fault Refusal := s.storeFrom .byte (s.x a) b

/-- `storew rN,(rM)` (43_load_store R193) -/
def execStorew (a b : Reg) (s : State) : Host.Outcome State Fault Refusal := s.storeFrom .word (s.x a) b

/-- `store rN,(rM)` (43_load_store R194) -/
def execStore (a b : Reg) (s : State) : Host.Outcome State Fault Refusal := s.storeFrom .long (s.x a) b

/-- `store rN,(r14+n)` (43_load_store R195) -/
def execStoreR14n (a : Field) (b : Reg) (s : State) : Host.Outcome State Fault Refusal :=
  s.storeFrom .long (s.offsetAddr 14 a) b

/-- `store rN,(r14+rM)` (43_load_store R197) -/
def execStoreR14rm (a b : Reg) (s : State) : Host.Outcome State Fault Refusal :=
  s.storeFrom .long (s.indexAddr 14 a) b

/-- `store rN,(r15+n)` (43_load_store R196) -/
def execStoreR15n (a : Field) (b : Reg) (s : State) : Host.Outcome State Fault Refusal :=
  s.storeFrom .long (s.offsetAddr 15 a) b

/-- `store rN,(r15+rM)` (43_load_store R198) -/
def execStoreR15rm (a b : Reg) (s : State) : Host.Outcome State Fault Refusal :=
  s.storeFrom .long (s.indexAddr 15 a) b

end Sys2Proof.Machine
end

