-- ==== Sys2Proof/Machine/Logical.lean ====
section
/-! DEFINITION. The meanings of the logical and bit instructions (41_logical). `C` is never written (R160). -/

namespace Sys2Proof.Machine

/-- `and rM,rN` (41_logical R161) -/
def execAnd (a b : Reg) (s : State) : Host.Outcome State Fault Refusal := .next (s.resultZN b (s.x b &&& s.x a))

/-- `or rM,rN` (41_logical R162) -/
def execOr (a b : Reg) (s : State) : Host.Outcome State Fault Refusal := .next (s.resultZN b (s.x b ||| s.x a))

/-- `xor rM,rN` (41_logical R163) -/
def execXor (a b : Reg) (s : State) : Host.Outcome State Fault Refusal := .next (s.resultZN b (s.x b ^^^ s.x a))

/-- `not rN`; field `A` is ignored (41_logical R164) -/
def execNot (_a : Field) (b : Reg) (s : State) : Host.Outcome State Fault Refusal := .next (s.resultZN b (~~~ (s.x b)))

/-- `btst #n,rN`: `Z` alone is written (41_logical R165) -/
def execBtst (a : Field) (b : Reg) (s : State) : Host.Outcome State Fault Refusal :=
  .next { s with z := !(s.x b).getLsbD a.toNat }

/-- `bset #n,rN` (41_logical R166) -/
def execBset (a : Field) (b : Reg) (s : State) : Host.Outcome State Fault Refusal :=
  .next (s.resultZN b (s.x b ||| ((1 : Long) <<< a.toNat)))

/-- `bclr #n,rN` (41_logical R167) -/
def execBclr (a : Field) (b : Reg) (s : State) : Host.Outcome State Fault Refusal :=
  .next (s.resultZN b (s.x b &&& ~~~((1 : Long) <<< a.toNat)))

end Sys2Proof.Machine
end

