-- ==== Sys2Proof/Machine/Move.lean ====
section
/-! DEFINITION. The meanings of the move instructions (44_move). None writes a flag. -/

namespace Sys2Proof.Machine

/-- `move rM,rN` (44_move R210) -/
def execMove (a b : Reg) (s : State) : Host.Outcome State Fault Refusal := .next (s.setX b (s.x a))

/-- `moveq #n,rN`: 0 to 31, zero-extended (44_move R211) -/
def execMoveq (a : Field) (b : Reg) (s : State) : Host.Outcome State Fault Refusal := .next (s.setX b (a.setWidth 32))

/-- `movei #imm32,rN`; field `A` is ignored; `imm` is what the extension words, fetched by the instruction cycle
(Machine/Cycle.lean), assemble to (44_move R212; log entry 13) -/
def execMovei (_a : Field) (b : Reg) (imm : Long) (s : State) : Host.Outcome State Fault Refusal := .next (s.setX b imm)

/-- `move pc,rN`: the address of this instruction; field `A` is ignored (44_move R213) -/
def execMovePc (_a : Field) (b : Reg) (s : State) : Host.Outcome State Fault Refusal := .next (s.setX b (s.pc - 2))

/-- `moveta rM,rN` (44_move R214) -/
def execMoveta (a b : Reg) (s : State) : Host.Outcome State Fault Refusal := .next (s.setXo b (s.x a))

/-- `movefa rM,rN` (44_move R215) -/
def execMovefa (a b : Reg) (s : State) : Host.Outcome State Fault Refusal := .next (s.setX b (s.xo a))

end Sys2Proof.Machine
end

