-- ==== Sys2Proof/Machine/Pack.lean ====
section
/-! DEFINITION. The meanings of `pack` and `unpack` (46_pack). Neither writes a flag. -/

namespace Sys2Proof.Machine

/-- `pack rN` (46_pack R250) -/
def execPack (b : Reg) (s : State) : Host.Outcome State Fault Refusal := .next (s.setX b (packed (s.x b)))

/-- `unpack rN` (46_pack R251) -/
def execUnpack (b : Reg) (s : State) : Host.Outcome State Fault Refusal := .next (s.setX b (unpacked (s.x b)))

end Sys2Proof.Machine
end

