-- ==== Sys2Proof/Machine/Shift.lean ====
section
/-! DEFINITION. The meanings of the shift and rotate instructions (42_shift). The carry is taken from the operand before
the shift: bit 0 for a right shift, bit 31 for a left shift or a rotate (R171). -/

namespace Sys2Proof.Machine

/-- The direction of a register form is the sign of its amount: not negative shifts right by `right` (42_shift R170,
R173, R174). -/
def State.shiftBy (s : State) (right : Long → Nat → Long) (b : Reg) (amt : Int) : State :=
  if 0 ≤ amt then s.shiftInto b (right (s.x b) amt.toNat) ((s.x b).getLsbD 0)
  else s.shiftInto b (lsl (s.x b) (-amt).toNat) ((s.x b).getLsbD 31)

/-- `sh rM,rN` (42_shift R173) -/
def execSh (a b : Reg) (s : State) : Host.Outcome State Fault Refusal := .next (s.shiftBy lsr b (shiftAmount (s.x a)))

/-- `sha rM,rN` (42_shift R174) -/
def execSha (a b : Reg) (s : State) : Host.Outcome State Fault Refusal := .next (s.shiftBy asr b (shiftAmount (s.x a)))

/-- `shlq #n,rN` (42_shift R175) -/
def execShlq (a : Field) (b : Reg) (s : State) : Host.Outcome State Fault Refusal :=
  .next (s.shiftInto b (lsl (s.x b) (leftCount a)) ((s.x b).getLsbD 31))

/-- `shrq #n,rN` (42_shift R176) -/
def execShrq (a : Field) (b : Reg) (s : State) : Host.Outcome State Fault Refusal :=
  .next (s.shiftInto b (lsr (s.x b) (quick a)) ((s.x b).getLsbD 0))

/-- `sharq #n,rN` (42_shift R177) -/
def execSharq (a : Field) (b : Reg) (s : State) : Host.Outcome State Fault Refusal :=
  .next (s.shiftInto b (asr (s.x b) (quick a)) ((s.x b).getLsbD 0))

/-- `ror rM,rN` (42_shift R178) -/
def execRor (a b : Reg) (s : State) : Host.Outcome State Fault Refusal :=
  .next (s.shiftInto b (rotr (s.x b) (shiftAmount (s.x a))) ((s.x b).getLsbD 31))

/-- `rorq #n,rN` (42_shift R179) -/
def execRorq (a : Field) (b : Reg) (s : State) : Host.Outcome State Fault Refusal :=
  .next (s.shiftInto b (rotr (s.x b) (quick a)) ((s.x b).getLsbD 31))

end Sys2Proof.Machine
end

