-- ==== Sys2Proof/Machine/Dispatch.lean ====
section
/-! DEFINITION. Dispatch: the one instruction rule that runs (45_control R222), one arm per constructor of `Instr`. -/

namespace Sys2Proof.Machine

/-- The rule of an instruction, performed on a state whose `pc` has been advanced past it (45_control R220; log entry
12). -/
def exec (i : Instr) (s : State) : Host.Outcome State Fault Refusal :=
  match i with
  | .add a b => Sys2Proof.Machine.execAdd a b s
  | .addc a b => Sys2Proof.Machine.execAddc a b s
  | .addq a b => Sys2Proof.Machine.execAddq a b s
  | .addqt a b => Sys2Proof.Machine.execAddqt a b s
  | .sub a b => Sys2Proof.Machine.execSub a b s
  | .subc a b => Sys2Proof.Machine.execSubc a b s
  | .subq a b => Sys2Proof.Machine.execSubq a b s
  | .subqt a b => Sys2Proof.Machine.execSubqt a b s
  | .neg a b => Sys2Proof.Machine.execNeg a b s
  | .and a b => Sys2Proof.Machine.execAnd a b s
  | .or a b => Sys2Proof.Machine.execOr a b s
  | .xor a b => Sys2Proof.Machine.execXor a b s
  | .not a b => Sys2Proof.Machine.execNot a b s
  | .btst a b => Sys2Proof.Machine.execBtst a b s
  | .bset a b => Sys2Proof.Machine.execBset a b s
  | .bclr a b => Sys2Proof.Machine.execBclr a b s
  | .mult a b => Sys2Proof.Machine.execMult a b s
  | .imult a b => Sys2Proof.Machine.execImult a b s
  | .div a b => Sys2Proof.Machine.execDiv a b s
  | .abs a b => Sys2Proof.Machine.execAbs a b s
  | .sh a b => Sys2Proof.Machine.execSh a b s
  | .shlq a b => Sys2Proof.Machine.execShlq a b s
  | .shrq a b => Sys2Proof.Machine.execShrq a b s
  | .sha a b => Sys2Proof.Machine.execSha a b s
  | .sharq a b => Sys2Proof.Machine.execSharq a b s
  | .ror a b => Sys2Proof.Machine.execRor a b s
  | .rorq a b => Sys2Proof.Machine.execRorq a b s
  | .cmp a b => Sys2Proof.Machine.execCmp a b s
  | .cmpq a b => Sys2Proof.Machine.execCmpq a b s
  | .sat8 a b => Sys2Proof.Machine.execSat8 a b s
  | .sat16 a b => Sys2Proof.Machine.execSat16 a b s
  | .move a b => Sys2Proof.Machine.execMove a b s
  | .moveq a b => Sys2Proof.Machine.execMoveq a b s
  | .moveta a b => Sys2Proof.Machine.execMoveta a b s
  | .movefa a b => Sys2Proof.Machine.execMovefa a b s
  | .movei a b imm => Sys2Proof.Machine.execMovei a b imm s
  | .loadb a b => Sys2Proof.Machine.execLoadb a b s
  | .loadw a b => Sys2Proof.Machine.execLoadw a b s
  | .load a b => Sys2Proof.Machine.execLoad a b s
  | .loadR14n a b => Sys2Proof.Machine.execLoadR14n a b s
  | .loadR15n a b => Sys2Proof.Machine.execLoadR15n a b s
  | .storeb a b => Sys2Proof.Machine.execStoreb a b s
  | .storew a b => Sys2Proof.Machine.execStorew a b s
  | .store a b => Sys2Proof.Machine.execStore a b s
  | .storeR14n a b => Sys2Proof.Machine.execStoreR14n a b s
  | .storeR15n a b => Sys2Proof.Machine.execStoreR15n a b s
  | .movePc a b => Sys2Proof.Machine.execMovePc a b s
  | .jump a b => Sys2Proof.Machine.execJump a b s
  | .jr a b => Sys2Proof.Machine.execJr a b s
  | .nop a b => Sys2Proof.Machine.execNop a b s
  | .loadR14rm a b => Sys2Proof.Machine.execLoadR14rm a b s
  | .loadR15rm a b => Sys2Proof.Machine.execLoadR15rm a b s
  | .storeR14rm a b => Sys2Proof.Machine.execStoreR14rm a b s
  | .storeR15rm a b => Sys2Proof.Machine.execStoreR15rm a b s
  | .sat24 a b => Sys2Proof.Machine.execSat24 a b s
  | .pack b => Sys2Proof.Machine.execPack b s
  | .unpack b => Sys2Proof.Machine.execUnpack b s
  | .unknown op a b => Sys2Proof.Machine.execUnknown op a b s

end Sys2Proof.Machine
end

