-- ==== Sys2Proof/Machine/Cycle.lean ====
section
/-! DEFINITION. The instruction cycle (45_control R220), skip (R223) and one iteration of the run loop (70_reset R316).
-/

namespace Sys2Proof.Machine

/-- The advance of `pc`, modulo 2^32, before the semantics (45_control R221, 10_state R27). -/
def State.advance (s : State) (width : Nat) : State := { s with pc := s.pc + BitVec.ofNat 32 width }

/-- The immediate of a `movei` whose opcode word stood at `pc - 6`, from its two extension words, with the reports of
their fetches (20_memory R73, 44_move R212). -/
def State.fetchImmediate (s : State) : Except Fault (Long × State) := do
  let p := s.pc - 6
  let (w1, s) ← s.fetch (p + 2)
  let (w2, s) ← s.fetch (p + 4)
  pure (immediate s.cfg.moveiWordOrder w1 w2, s)

/-- The instruction of a word on the advanced state: `movei` alone fetches more words (30_encoding R103, 20_memory
R73). -/
def State.instruction (s : State) (w : Word) : Except Fault (Instr × State) :=
  match kindOfWord s.cfg.opcodeMap w with
  | .movei => do
    let (imm, s) ← s.fetchImmediate
    pure (decodeWord s.cfg.opcodeMap w imm, s)
  | _ => .ok (decodeWord s.cfg.opcodeMap w 0, s)

/-- The instruction's rule and the delay-slot commit after it (45_control R222, R224). -/
def execAndCommit (i : Instr) (s : State) : Host.Outcome State Fault Refusal :=
  match exec i s with
  | .next s' => .next (s'.commitDelaySlot i.isBranch)
  | .fault f => .fault f
  | .refused r => .refused r

/-- `Step(w, true)` (45_control R220). -/
def executeWord (w : Word) (s : State) : Host.Outcome State Fault Refusal :=
  match (s.advance (kindOfWord s.cfg.opcodeMap w).width).instruction w with
  | .ok (i, s') => execAndCommit i s'
  | .error f => .fault f

/-- `w <- Fetch(pc); Step(w, true)`: one executed instruction (70_reset R313). -/
def executeNext (s : State) : Host.Outcome State Fault Refusal :=
  match s.fetch s.pc with
  | .ok (w, s') => executeWord w s'
  | .error f => .fault f

/-- `w <- Fetch(pc); Step(w, false)`: only `pc` moves (70_reset R314, 45_control R223). -/
def skipNext (s : State) : Host.Outcome State Fault Refusal :=
  match s.fetch s.pc with
  | .ok (w, s') => .next (s'.advance (kindOfWord s'.cfg.opcodeMap w).width)
  | .error f => .fault f

/-- `StopRun(reason)` (70_reset R316). -/
def State.stopRunFor (s : State) (reason : StopReason) : State :=
  ({ s with runState := .idle, selfStop := false, stopRequested := false } : State).report (.stopped reason)

/-- The end of an iteration: a fatal reset has left `Running`; a self-stop ends the run (70_reset R316). -/
def State.afterRunStep (s : State) : State :=
  if s.runState ≠ .running then s
  else if s.selfStop then s.stopRunFor .selfStop
  else s

/-- One iteration of the run loop: the tests in the order of 70_reset R316, then one executed instruction. -/
def runIteration (s : State) : Host.Outcome State Fault Refusal :=
  if s.stopRequested then .next (s.stopRunFor .requested)
  else if s.breakpoints.contains s.pc then .next (s.stopRunFor .breakpoint)
  else if s.loadAddress.toNat + s.programSize ≤ s.pc.toNat then .next (s.stopRunFor .endOfImage)
  else match executeNext s with
    | .next s' => .next s'.afterRunStep
    | .fault f => .fault f
    | .refused r => .refused r

/-- A host operation refused: reported, nothing else changes (60_exceptions R260). -/
def State.reject (s : State) (what : Rejection) : State := s.report (.rejected what)

/-- What one step of the machine is, by its run state: an iteration of the run loop while running, the host's `step()`
while idle, and that operation refused without an image (70_reset R310, R313, R316; log entry 11). -/
def machineStep (s : State) : Host.Outcome State Fault Refusal :=
  if s.cfg.wf = false then .refused .badConfiguration
  else match s.runState with
    | .running => runIteration s
    | .idle => executeNext s
    | .noImage => .next (s.reject (.operation .step))

/-! ### Placing an instruction where the next step fetches it -/

/-- The bytes put where `pc` fetches: at `pc` with bit 0 cleared, in address order, as far as the buffer reaches. -/
def State.placeAtPc (s : State) (bs : List Byte) : State :=
  s.putBytes (alignDown .word s.pc).toNat (bs.take (s.cfg.memSize - (alignDown .word s.pc).toNat))

/-- The run state made such that the next step executes the instruction at `pc`: an image counts as loaded; while
running, none of the run loop's tests stops the run before it (70_reset R310, R316). An idle state is left as it is. -/
def State.readyToExecute (s : State) : State :=
  match s.runState with
  | .idle => s
  | .noImage => { s with runState := .idle }
  | .running =>
    { s with
      stopRequested := false
      breakpoints := s.breakpoints.filter (fun a => a ≠ s.pc)
      programSize := max s.programSize (s.pc.toNat + 6 - s.loadAddress.toNat) }

end Sys2Proof.Machine
end

