-- ==== Sys2Proof/Machine/HostOps.lean ====
section
/-! DEFINITION. The host operations (70_reset R310 to R322, 60_exceptions R285). They act between steps (R322; log entry
21). -/

namespace Sys2Proof.Machine

/-! ### The breakpoint set, kept with addresses strictly rising (log entry 16) -/

/-- Insert an address that is not in the set. -/
def insertBreakpoint : List Long → Long → List Long
  | [], a => [a]
  | b :: bs, a => if a.toNat < b.toNat then a :: b :: bs else b :: insertBreakpoint bs a

/-- `hasBreakpoint(a)` (60_exceptions R285). -/
def State.hasBreakpoint (s : State) (a : Long) : Bool := s.breakpoints.contains a

/-- `setBreakpoint(a)`, a toggle (60_exceptions R285). -/
def State.toggleBreakpoint (s : State) (a : Long) : State :=
  if s.hasBreakpoint a then
    { s with
      breakpoints := s.breakpoints.filter (fun b => b ≠ a)
      primary := if s.primary = some a then none else s.primary }
  else { s with breakpoints := insertBreakpoint s.breakpoints a, primary := some a }

/-- `setBreakpoint` with its text parsed, `none` when the text does not parse (60_exceptions R285; log entry 19). -/
def setBreakpoint (text : Option Long) (s : State) : State :=
  match text with
  | some a => s.toggleBreakpoint a
  | none => s.reject .breakpointText

/-! ### The image load -/

/-- The load address and the program body of a file: a file of at least 12 bytes that starts with the magic has a header,
whose bytes 4 to 7 are the address and whose bytes 8 to 11 are ignored; any other is plain (70_reset R311). -/
def parseImage (magic : Long) (file : List Byte) (address : Long) : Long × List Byte :=
  match file with
  | m3 :: m2 :: m1 :: m0 :: a3 :: a2 :: a1 :: a0 :: _ :: _ :: _ :: _ :: body =>
    if m3 ++ m2 ++ m1 ++ m0 = magic then (a3 ++ a2 ++ a1 ++ a0, body) else (address, file)
  | _ => (address, file)

/-- Is the image refused: an odd load address, or one at which it does not fit (70_reset R303, R311)? -/
def imageRefused (cfg : Config) (la : Long) (size : Nat) : Bool :=
  la.getLsbD 0 || decide (cfg.memSize < la.toNat + size)

/-- `loadBin(bytes, address)`: a raw copy without hook or report, then `Reset()`. The answer tells whether the load was
accepted. `file` is `none` when the file cannot be read; IMAGE_MAGIC is the argument `magic` (70_reset R311, R310,
20_memory R90; log entries 15 and 19). -/
def loadBin (magic : Long) (file : Option (List Byte)) (address : Long) (s : State) : Bool × State :=
  if s.runState = .running then (false, s.reject (.operation .loadBin))
  else match file with
    | none => (false, s.reject .unreadableFile)
    | some f =>
      let la := (parseImage magic f address).1
      let body := (parseImage magic f address).2
      if imageRefused s.cfg la body.length then (false, s.reject .image)
      else
        (true, ({ s.putBytes la.toNat body with loadAddress := la, programSize := body.length } : State).resetCore)

/-! ### The other operations -/

/-- `reset()` (70_reset R312, R310). -/
def hostReset (s : State) : State :=
  match s.runState with
  | .idle => s.resetCore
  | .noImage => s.reject (.operation .reset)
  | .running => s.reject (.operation .reset)

/-- `step()` (70_reset R313, R310). -/
def hostStep (s : State) : Host.Outcome State Fault Refusal :=
  match s.runState with
  | .idle => executeNext s
  | .noImage => .next (s.reject (.operation .step))
  | .running => .next (s.reject (.operation .step))

/-- `skip()` (70_reset R314, R310). -/
def hostSkip (s : State) : Host.Outcome State Fault Refusal :=
  match s.runState with
  | .idle => skipNext s
  | .noImage => .next (s.reject (.operation .skip))
  | .running => .next (s.reject (.operation .skip))

/-- `run()`, a toggle: it starts the loop, whose iterations are then the machine's steps, or requests it to stop
(70_reset R315, R316, R310). -/
def hostRun (s : State) : State :=
  match s.runState with
  | .idle => { s with runState := .running, selfStop := false, stopRequested := false }
  | .noImage => s.reject (.operation .run)
  | .running => { s with stopRequested := true }

/-- `stopRun()` (70_reset R317). -/
def hostStopRun (s : State) : State :=
  match s.runState with
  | .running => s.stopRunFor .requested
  | .idle => s
  | .noImage => s

/-- `editRegister(bank, index, value)`: the bank is named absolutely, the value truncated to 32 bits; `none` is malformed
text (70_reset R320, R310; log entry 19). -/
def editRegister (edit : Option (Nat × Nat × Int)) (s : State) : State :=
  if s.runState = .running then s.reject (.operation .editRegister)
  else match edit with
    | none => s.reject .registerEdit
    | some (bank, index, value) =>
      if bank < 2 ∧ index < 32 then s.setReg (bank == 1) (BitVec.ofNat 5 index) (trunc32 value)
      else s.reject .registerEdit

/-- `setMode(isPrimaryMode)`: `mode` alone changes (70_reset R321, R310). -/
def setMode (isPrimaryMode : Bool) (s : State) : State :=
  if s.runState = .running then s.reject (.operation .setMode)
  else { s with mode := if isPrimaryMode then .gpu else .dsp }

/-- The host operations with their arguments. -/
inductive HostAction where
  | loadBin (magic : Long) (file : Option (List Byte)) (address : Long)
  | reset
  | step
  | skip
  | run
  | stopRun
  | setBreakpoint (text : Option Long)
  | editRegister (edit : Option (Nat × Nat × Int))
  | setMode (isPrimaryMode : Bool)
  deriving DecidableEq, Repr

/-- One host operation (70_reset section 3), under parameters that 00_scope R5 admits. -/
def hostAct (op : HostAction) (s : State) : Host.Outcome State Fault Refusal :=
  if s.cfg.wf = false then .refused .badConfiguration
  else match op with
    | .loadBin magic file address => .next (loadBin magic file address s).2
    | .reset => .next (hostReset s)
    | .step => hostStep s
    | .skip => hostSkip s
    | .run => .next (hostRun s)
    | .stopRun => .next (hostStopRun s)
    | .setBreakpoint text => .next (setBreakpoint text s)
    | .editRegister edit => .next (editRegister edit s)
    | .setMode isPrimaryMode => .next (setMode isPrimaryMode s)

/-! ### The accessors (70_reset R319): what the host can read, between instructions and without effect -/

/-- The registers of a bank, `r0` first. -/
def State.registerText (s : State) (k : Bool) : List Long :=
  match k with
  | false => s.regs0.toList
  | true => s.regs1.toList

/-- `Z`, `N`, `C`. -/
def State.flagText (s : State) : Bool × Bool × Bool := (s.z, s.n, s.c)

/-- `pc`. -/
def State.programCounter (s : State) : Long := s.pc

/-- `DS.target`, whatever `DS.pending` is (10_state R32, 93 U9; log entry 17). -/
def State.jumpSlotTarget (s : State) : Long := s.ds.target

/-- `primary`, the "breakpoint address". -/
def State.breakpointAddress (s : State) : Option Long := s.primary

end Sys2Proof.Machine
end

