-- ==== Sys2Proof/Machine/Step.lean ====
section
/-! DEFINITION. One step of the machine, and how an instruction is placed where the next step fetches it. -/

namespace Sys2Proof.Machine

/-- One step (Machine/Cycle.lean, `machineStep`; log entry 11). -/
def step (s : State) : Host.Outcome State Fault Refusal := machineStep s

/-- `s` with the instruction whose bits are `w` stored where `step` fetches its next instruction; it stands for the load of
a program from outside the machine (log entry 10). -/
def State.withFetchWord (s : State) (nbits w : Nat) : State :=
  (s.placeAtPc (bytesOfWords (tableWords nbits w))).readyToExecute

end Sys2Proof.Machine
end

