-- ==== Sys2Proof/Safety.lean ====
section
/-! DEFINITION. The terms that statements about the machine use: the invariant of the state, what a clean run is, and
what an instruction leaves unchanged. -/

namespace Sys2Proof.Machine

/-! ### The invariant -/

/-- The breakpoint list is in its canonical form: addresses strictly rising (log entry 16). -/
abbrev sortedBreakpoints (bs : List Long) : Prop := bs.Pairwise (fun a b => a.toNat < b.toNat)

/-- What holds of the state between two steps. -/
structure State.Inv (s : State) : Prop where
  /-- the memory keeps its canonical form -/
  memSorted : s.mem.wf
  /-- every byte that has a value lies in the buffer (20_memory R60) -/
  memInBuffer : ∀ c ∈ s.mem, c.1 < s.cfg.memSize
  /-- every byte of the six memory-mapped registers has a value (10_state R34 to R37; log entry 23) -/
  registersHold : ∀ r ∈ s.cfg.registerAddrs, ∀ k, k < 4 → (s.mem.read (r.toNat + k)).isSome = true
  /-- `pc` is even at all times (10_state R25, R27) -/
  pcEven : s.pc.getLsbD 0 = false
  /-- a recorded target is even (45_control R226, R227) -/
  targetEven : s.ds.target.getLsbD 0 = false
  /-- the load address is even (70_reset R303) -/
  loadAddressEven : s.loadAddress.getLsbD 0 = false
  /-- `self_stop` does not outlive the iteration of the run loop that set it (70_reset R316) -/
  noSelfStop : s.selfStop = false
  /-- a stop is requested only of an active run (70_reset R315, R316) -/
  stopOnlyWhileRunning : s.stopRequested = true → s.runState = .running
  /-- the breakpoint list is canonical -/
  breakpointsSorted : sortedBreakpoints s.breakpoints
  /-- the primary breakpoint, when there is one, is in the set (60_exceptions R285, 90_conflicts C8) -/
  primaryIsBreakpoint : ∀ a, s.primary = some a → a ∈ s.breakpoints

/-! ### Clean runs -/

/-- The reports after which the values of a run are artefacts: an out-of-bounds access, an UNKNOWN word, a fatal target
(60_exceptions R262, R263; 93 U2 to U4). -/
def Report.isAbnormal : Report → Bool
  | .outOfBounds _ _ => true
  | .unknownOpcode _ _ => true
  | .pcOutOfBounds _ => true
  | .alignmentWarning _ _ => false
  | .restrictedAccess _ _ => false
  | .selfStop => false
  | .stopped _ => false
  | .rejected _ => false

/-- No abnormal condition has been reported: "A model should record the fault in its state (the run is then not a clean
run)" (60_exceptions R262). -/
def State.clean (s : State) : Bool := !s.reports.any Report.isAbnormal

/-! ### What stays unchanged -/

/-- Every register of both banks is unchanged. -/
def RegsSame (s t : State) : Prop := ∀ k i, t.reg k i = s.reg k i

/-- Every register is unchanged but register `i` of bank `k`. -/
def RegsSameBut (s t : State) (k : Bool) (i : Reg) : Prop := ∀ k' i', (k' ≠ k ∨ i' ≠ i) → t.reg k' i' = s.reg k' i'

/-- The three flags are unchanged. -/
def FlagsSame (s t : State) : Prop := t.z = s.z ∧ t.n = s.n ∧ t.c = s.c

/-- Every byte of memory is unchanged. -/
def MemSame (s t : State) : Prop := ∀ x, t.mem.read x = s.mem.read x

/-- Every byte of memory is unchanged but the `n` bytes from `a`. -/
def MemSameOutside (s t : State) (a n : Nat) : Prop := ∀ x, (x < a ∨ a + n ≤ x) → t.mem.read x = s.mem.read x

/-- The state that neither a register, a flag, the memory, the bank, the delay slot, `self_stop` nor the report channel
holds. `exec` writes none of it: `pc` is moved by the cycle (10_state R26), the rest by the host (10_state R33, R40 to
R42). -/
def HostStateSame (s t : State) : Prop :=
  t.cfg = s.cfg ∧ t.pc = s.pc ∧ t.mode = s.mode ∧ t.runState = s.runState ∧ t.stopRequested = s.stopRequested
  ∧ t.loadAddress = s.loadAddress ∧ t.programSize = s.programSize ∧ t.breakpoints = s.breakpoints
  ∧ t.primary = s.primary

/-- All that is not a register, a flag or a byte of memory is unchanged. -/
def SpecialsSame (s t : State) : Prop :=
  HostStateSame s t ∧ t.bank = s.bank ∧ t.ds = s.ds ∧ t.selfStop = s.selfStop ∧ t.reports = s.reports

/-- Everything is unchanged but register `i` of bank `k` and the flags. -/
def OnlyRegAndFlags (s t : State) (k : Bool) (i : Reg) : Prop :=
  RegsSameBut s t k i ∧ MemSame s t ∧ SpecialsSame s t

/-- Everything is unchanged but register `i` of bank `k`. -/
def OnlyReg (s t : State) (k : Bool) (i : Reg) : Prop := OnlyRegAndFlags s t k i ∧ FlagsSame s t

/-- Everything is unchanged but the flags. -/
def OnlyFlags (s t : State) : Prop := RegsSame s t ∧ MemSame s t ∧ SpecialsSame s t

/-- `Z` and `N` are what a result's zero test and signed sign give (40_arithmetic R130). -/
def ZNFrom (t : State) (res : Long) : Prop := (t.z = true ↔ res = 0) ∧ (t.n = true ↔ res.toInt < 0)

/-! ### Accesses to memory -/

/-- What the mode selects, written out: in GPU mode the GPU-mode flags and control registers and window, in DSP mode the
DSP-mode ones (10_state R33 to R35, R38). -/
def State.modeParams (s : State) : ModeParams :=
  match s.mode with
  | .gpu => s.cfg.gpu
  | .dsp => s.cfg.dsp

/-- IRAM_SIZE of the mode, written out: 4096 bytes in GPU mode, 8192 in DSP mode (00_scope R4, 10_state R38). -/
def State.windowSize (s : State) : Nat :=
  match s.mode with
  | .gpu => 4096
  | .dsp => 8192

/-- The advisory reports of an in-bounds data access, in order (20_memory R64, R66): misalignment, and for a byte or a word
`IRAM_BASE[mode] <= a < IRAM_BASE[mode] + IRAM_SIZE[mode]` of the masked address `a` (R74). -/
def advisories (s : State) (w : Width) (addr : Long) : List Report :=
  (if addr.toNat % widthBytes w ≠ 0 ∧ s.cfg.suppressAlignWarn = false
    then [Report.alignmentWarning addr (widthBytes w)] else [])
  ++ (if w ≠ .long ∧ s.modeParams.iramBase.toNat ≤ (alignDown w addr).toNat
      ∧ (alignDown w addr).toNat < s.modeParams.iramBase.toNat + s.windowSize
    then [Report.restrictedAccess (alignDown w addr) (widthBytes w)] else [])

/-- The reports of an out-of-bounds data access, in order (20_memory R64 to R66). -/
def boundsReports (s : State) (w : Width) (addr : Long) : List Report :=
  (if addr.toNat % widthBytes w ≠ 0 ∧ s.cfg.suppressAlignWarn = false
    then [Report.alignmentWarning addr (widthBytes w)] else [])
  ++ [Report.outOfBounds (alignDown w addr) (widthBytes w)]

/-- The long at a register address, when its four bytes have a value. -/
def State.rawLong? (s : State) (a : Long) : Option Long := (s.readLong a.toNat).toOption

/-- The state whose memory is what a store of the width's bytes leaves, before the write hook (20_memory R71). -/
def State.stored (s : State) (w : Width) (addr : Long) (v : Long) : State :=
  s.putBytes (alignDown w addr).toNat (storeBytes w v)

/-- The write hook after storing finds values where it reads: the flags register of the mode and, while a run is active,
its control register (20_memory R76, R77; 70_reset R304). -/
def State.hookReady (s : State) (w : Width) (addr : Long) (v : Long) : Prop :=
  (∃ f, (s.stored w addr v).rawLong? s.modeParams.flagsAddr = some f)
  ∧ (s.runState = .running → ∃ c, (s.stored w addr v).rawLong? s.modeParams.ctrlAddr = some c)

/-- Does the write hook after storing find the enable bit clear during a run (20_memory R77)? -/
def State.stopsItself (s : State) (w : Width) (addr : Long) (v : Long) : Prop :=
  s.runState = .running
  ∧ ∃ c, (s.stored w addr v).rawLong? s.modeParams.ctrlAddr = some c ∧ c.getLsbD s.cfg.enableBit = false

/-! ### Operands and conditions as the spec's tables list them -/

/-- The unsigned number that bytes read big-endian give (20_memory R62). -/
def bigEndian (bs : List Byte) : Nat := bs.foldl (fun acc b => 256 * acc + b.toNat) 0

/-- The quick immediate as 30_encoding R105 words it: 32 for field 0, else the field. -/
def quickValue (f : Field) : Nat := if f.toNat = 0 then 32 else f.toNat

/-- The signed 5-bit immediate as 30_encoding R107 words it: `A` for 0 to 15, `A - 32` for 16 to 31. -/
def signedValue (f : Field) : Int := if f.toNat < 16 then f.toNat else (f.toNat : Int) - 32

/-- The width, effective address and destination of a load instruction (43_load_store R185 to R191). -/
def State.loadOperand (s : State) : Instr → Option (Width × Long × Reg)
  | .loadb a b => some (.byte, s.x a, b)
  | .loadw a b => some (.word, s.x a, b)
  | .load a b => some (.long, s.x a, b)
  | .loadR14n a b => some (.long, s.offsetAddr 14 a, b)
  | .loadR15n a b => some (.long, s.offsetAddr 15 a, b)
  | .loadR14rm a b => some (.long, s.indexAddr 14 a, b)
  | .loadR15rm a b => some (.long, s.indexAddr 15 a, b)
  | _ => none

/-- The width, effective address and data register of a store instruction (43_load_store R192 to R198). -/
def State.storeOperand (s : State) : Instr → Option (Width × Long × Reg)
  | .storeb a b => some (.byte, s.x a, b)
  | .storew a b => some (.word, s.x a, b)
  | .store a b => some (.long, s.x a, b)
  | .storeR14n a b => some (.long, s.offsetAddr 14 a, b)
  | .storeR15n a b => some (.long, s.offsetAddr 15 a, b)
  | .storeR14rm a b => some (.long, s.indexAddr 14 a, b)
  | .storeR15rm a b => some (.long, s.indexAddr 15 a, b)
  | _ => none

/-- The flag combination under which a value of the condition field matches, as 45_control R228 lists it; the values it
does not list never match. -/
def matchesWhen (value : Nat) (z n c : Bool) : Prop :=
  value = 0x00
  ∨ (value = 0x01 ∧ z = false) ∨ (value = 0x02 ∧ z = true)
  ∨ (value = 0x04 ∧ c = false) ∨ (value = 0x05 ∧ c = false ∧ z = false) ∨ (value = 0x06 ∧ c = false ∧ z = true)
  ∨ (value = 0x08 ∧ c = true) ∨ (value = 0x09 ∧ c = true ∧ z = false) ∨ (value = 0x0A ∧ c = true ∧ z = true)
  ∨ (value = 0x14 ∧ n = false) ∨ (value = 0x15 ∧ n = false ∧ z = false) ∨ (value = 0x16 ∧ n = false ∧ z = true)
  ∨ (value = 0x18 ∧ n = true) ∨ (value = 0x19 ∧ n = true ∧ z = false) ∨ (value = 0x1A ∧ n = true ∧ z = true)

/-- May this instruction write memory: a store, or `div` in GPU mode (20_memory R61, 40_arithmetic R143)? -/
def State.mayWriteMemory (s : State) (i : Instr) : Bool :=
  match i with
  | .div _ _ => s.mode == .gpu
  | i => (s.storeOperand i).isSome

end Sys2Proof.Machine
end

