-- ==== Sys2Proof/Certificates/Slice0/Obligations.lean ====
section
/-! DEFINITION. The statements for the provers, from the numbered rules of spec/. Where a rule carries the spec's own mark
of a decision or of general knowledge, the statement's basis is "derived" and its docstring names the decision. -/

open Sys2Proof Sys2Proof.Machine

/-! ### Encoding -/

/-- 30_encoding R101: a word is `op`, `A`, `B`, by the document's three formulas, and has exactly one such triple. -/
def Obligations.FieldsOfAnInstructionWord : Prop :=
  ∀ w : Word,
    (opField w).toNat = w.toNat >>> 10
    ∧ (aField w).toNat = (w.toNat >>> 5) &&& 31
    ∧ (bField w).toNat = w.toNat &&& 31
    ∧ w.toNat = (opField w).toNat * 1024 + (aField w).toNat * 32 + (bField w).toNat
    ∧ ∀ (op : Opcode) (a b : Field), wordOfFields op a b = w ↔ op = opField w ∧ a = aField w ∧ b = bField w

/-- 30_encoding R116: re-encoding what a word decodes to gives the word back, for every word, UNKNOWN ones too, and
decoding keeps its operand fields exactly. -/
def Obligations.ReencodingRestoresTheWord : Prop :=
  ∀ (m : OpcodeMap) (w : Word) (imm : Long), m.noRepeats = true →
    (decodeWord m w imm).firstWord m = w
    ∧ (decodeWord m w imm).fieldA = aField w
    ∧ (decodeWord m w imm).fieldB = bField w

/-- Decode and encode agree on every well-formed instruction, for every opcode map and both word orders of the immediate:
30_encoding R116 with R104, R110. -/
def Obligations.DecodingInvertsEncoding : Prop :=
  ∀ (m : OpcodeMap) (order : WordOrder) (i : Instr) (rest : List Byte), i.wf m = true →
    decode m order (bytesOfWords (encode m order i) ++ rest) = .ok (i, rest)

/-- Under the default opcode map the words that decode as UNKNOWN are those of eight opcode values, and those of opcode 63
with `A >= 2`: 30_encoding R112, R111. The spec's decision D3; log entry 7. -/
def Obligations.UnknownWordsAreExactlyTheUnassigned : Prop :=
  ∀ (w : Word) (imm : Long),
    (∃ op a b, decodeWord defaultOpcodeMap w imm = .unknown op a b)
      ↔ (w.toNat / 1024 ∈ [18, 19, 20, 42, 48, 54, 55, 56] ∨ (w.toNat / 1024 = 63 ∧ 2 ≤ w.toNat / 32 % 32))

/-- Words written out from the encodings of the instruction rules decode to what they stand for; the rules' own examples.
The model's choices in it, as the spec's decisions have them: the numbering (D2; log entry 7), and that the first extension
word of `movei` is the high half (30_encoding R104, D6; log entry 9). -/
def Obligations.WrittenWordsDecode : Prop :=
  decodeTableWord 16 0x0022 = some (.add 1 2)
  ∧ decodeTableWord 16 0x3BE1 = some (.bset 31 1)
  ∧ decodeTableWord 16 0x6383 = some (.shlq 28 3)
  ∧ decodeTableWord 16 0xAC62 = some (.loadR14n 3 2)
  ∧ decodeTableWord 16 0xBC22 = some (.store 1 2)
  ∧ decodeTableWord 16 0x9022 = some (.moveta 1 2)
  ∧ decodeTableWord 16 0xD7A1 = some (.jr 29 1)
  ∧ decodeTableWord 16 0xFC23 = some (.unpack 3)
  ∧ decodeTableWord 48 0x211400F09801 = some (.movei 0 1 0x00F02114)
  ∧ decodeTableWord 16 0x4800 = some (.unknown 18 0 0)

/-- Decoding takes 6 bytes when the opcode of the first word selects the immediate-load form and 2 bytes otherwise, and
fails only for want of bytes: 30_encoding R100, R103, R115. -/
def Obligations.LengthIsSixForMoveiElseTwo : Prop :=
  ∀ (m : OpcodeMap) (order : WordOrder) (b0 b1 : Byte) (rest : List Byte),
    (m.select (opField (b0 ++ b1)) ≠ .movei →
      ∃ i, decode m order (b0 :: b1 :: rest) = .ok (i, rest) ∧ i.width = 2)
    ∧ (m.select (opField (b0 ++ b1)) = .movei → 4 ≤ rest.length →
      ∃ i, decode m order (b0 :: b1 :: rest) = .ok (i, rest.drop 4) ∧ i.width = 6)
    ∧ (m.select (opField (b0 ++ b1)) = .movei → rest.length < 4 →
      decode m order (b0 :: b1 :: rest) = .error .truncatedImmediate)

/-! ### The instruction cycle -/

/-- A step runs the decoded instruction: when the bytes at `pc` decode to `i`, an idle machine's step is the rule of `i` on
the state whose `pc` has moved past it, then the delay-slot commit; during a run whose tests do not stop it, the same and
then the self-stop test: 45_control R220, 70_reset R313, R316. -/
def Obligations.StepRunsTheDecodedInstruction : Prop :=
  ∀ (s : State) (bs : List Byte) (i : Instr), s.cfg.wf = true → s.pc.getLsbD 0 = false →
    s.pc.toNat + bs.length ≤ s.cfg.memSize →
    (∀ k : Nat, ∀ h : k < bs.length, s.mem.read (s.pc.toNat + k) = some bs[k]) →
    decode s.cfg.opcodeMap s.cfg.moveiWordOrder bs = .ok (i, []) →
    (s.runState = .idle →
      step s = match exec i { s with pc := s.pc + BitVec.ofNat 32 i.width } with
        | .next t => .next (t.commitDelaySlot i.isBranch)
        | .fault f => .fault f
        | .refused r => .refused r)
    ∧ (s.runState = .running → s.stopRequested = false → s.pc ∉ s.breakpoints →
        s.pc.toNat < s.loadAddress.toNat + s.programSize →
      step s = match exec i { s with pc := s.pc + BitVec.ofNat 32 i.width } with
        | .next t => .next (t.commitDelaySlot i.isBranch).afterRunStep
        | .fault f => .fault f
        | .refused r => .refused r)

/-- Sequential execution past the end of memory: the fetch gives the sentinel word, which is UNKNOWN, so the step makes two
reports and moves `pc` by 2: 30_encoding R113, 20_memory R72, 10_state R27 (D16, D25). That executing the UNKNOWN word only
reports is 45_control R230 (D14), which the model follows instead of the fault that 93 U2 recommends: its choice, log entry
3. -/
def Obligations.FetchBeyondMemoryIsReportedTwice : Prop :=
  ∀ s : State, s.cfg.wf = true → s.runState = .idle → s.pc.getLsbD 0 = false → s.ds.pending = false →
    (s.pc.getLsbD 31 = true ∨ s.cfg.memSize < s.pc.toNat + 2) → s.cfg.opcodeMap.select 63 = .packUnpack →
    step s = .next { s with
      pc := s.pc + 2
      reports := s.reports ++ [.outOfBounds s.pc 2, .unknownOpcode 0xFFFF s.pc] }

/-- A `movei` whose second extension word lies beyond memory takes `0xFFFF` for it and reports the fetch, and changes nothing
but its register, `pc` and the reports: 20_memory R73, 44_move R212 (D6, D16). -/
def Obligations.ExtensionWordBeyondMemoryIsAllOnes : Prop :=
  ∀ (s : State) (b : Reg) (h l eh el : Byte), s.cfg.wf = true → s.runState = .idle → s.ds.pending = false →
    s.pc.toNat + 4 = s.cfg.memSize →
    s.mem.read s.pc.toNat = some h → s.mem.read (s.pc.toNat + 1) = some l →
    s.mem.read (s.pc.toNat + 2) = some eh → s.mem.read (s.pc.toNat + 3) = some el →
    s.cfg.opcodeMap.select (opField (h ++ l)) = .movei → bField (h ++ l) = b →
    ∃ t, step s = .next t
      ∧ t.reg s.bank b = (match s.cfg.moveiWordOrder with
          | .highFirst => eh ++ el ++ (0xFFFF : Word)
          | .lowFirst => (0xFFFF : Word) ++ (eh ++ el))
      ∧ t.pc = s.pc + 6 ∧ t.reports = s.reports ++ [.outOfBounds (s.pc + 4) 2]
      ∧ RegsSameBut s t s.bank b ∧ FlagsSame s t ∧ MemSame s t ∧ t.bank = s.bank ∧ t.ds = s.ds
      ∧ t.cfg = s.cfg ∧ t.mode = s.mode ∧ t.runState = s.runState ∧ t.selfStop = s.selfStop
      ∧ t.stopRequested = s.stopRequested ∧ t.loadAddress = s.loadAddress ∧ t.programSize = s.programSize
      ∧ t.breakpoints = s.breakpoints ∧ t.primary = s.primary

/-- 70_reset R314: in an idle machine `skip()` fetches the opcode word and changes nothing but `pc`, by 2 or by 6; a fetch
beyond memory gives `0xFFFF` (D16) and makes its report. -/
def Obligations.SkipMovesOnlyThePc : Prop :=
  ∀ s : State, s.cfg.wf = true → s.runState = .idle → s.pc.getLsbD 0 = false →
    (∀ h l : Byte, s.pc.toNat + 2 ≤ s.cfg.memSize →
      s.mem.read s.pc.toNat = some h → s.mem.read (s.pc.toNat + 1) = some l →
      hostAct .skip s
        = .next { s with pc := s.pc + (if s.cfg.opcodeMap.select (opField (h ++ l)) = .movei then 6 else 2) })
    ∧ (s.cfg.memSize < s.pc.toNat + 2 →
      hostAct .skip s = .next { s with
        pc := s.pc + (if s.cfg.opcodeMap.select 63 = .movei then 6 else 2)
        reports := s.reports ++ [.outOfBounds s.pc 2] })

/-- 45_control R224: after an executed instruction that is neither `jump` nor `jr` a pending target is committed and the
slot cleared; after those two, taken or not, and with no pending slot, nothing is committed. That `DS.target` keeps the
committed address is the model's choice where 93 U9 allows any value (10_state R32, D11; log entry 17). -/
def Obligations.CommitFollowsEveryNonBranch : Prop :=
  ∀ (i : Instr) (s t : State), exec i s = .next t →
    (i.isBranch = true ↔ (∃ a b, i = .jump a b) ∨ ∃ a b, i = .jr a b)
    ∧ (i.isBranch = true → execAndCommit i s = .next t)
    ∧ (i.isBranch = false → t.ds.pending = false → execAndCommit i s = .next t)
    ∧ (i.isBranch = false → t.ds.pending = true → t.ds.target.getLsbD 31 = false →
        t.ds.target.toNat + 2 ≤ t.cfg.memSize →
      execAndCommit i s = .next { t with pc := t.ds.target, ds := { target := t.ds.target, pending := false } })

/-- 45_control R225: a committed target out of bounds is reported with its value and resets the core at once; the memory
the delay-slot instruction wrote is not undone. -/
def Obligations.TargetOutsideMemoryResetsTheCore : Prop :=
  ∀ (i : Instr) (s t : State), exec i s = .next t → i.isBranch = false → t.ds.pending = true →
    (t.ds.target.getLsbD 31 = true ∨ t.cfg.memSize < t.ds.target.toNat + 2) →
    ∃ u, execAndCommit i s = .next u
      ∧ (∀ k r, u.reg k r = 0) ∧ u.z = false ∧ u.n = false ∧ u.c = false
      ∧ u.pc = t.loadAddress ∧ u.ds = { target := 0, pending := false } ∧ u.runState = .idle
      ∧ u.selfStop = false ∧ u.stopRequested = false
      ∧ u.reports = t.reports ++ [.pcOutOfBounds t.ds.target]
      ∧ u.mem = t.mem ∧ u.bank = t.bank ∧ u.mode = t.mode ∧ u.cfg = t.cfg
      ∧ u.loadAddress = t.loadAddress ∧ u.programSize = t.programSize
      ∧ u.breakpoints = t.breakpoints ∧ u.primary = t.primary

/-! ### Invariants and whole-machine rules -/

/-- Every step keeps the invariant, from every state that meets it: the memory stays canonical and inside the buffer, `pc`,
a recorded target and the load address stay even, the memory-mapped registers keep a value, `self_stop` does not outlive its
iteration (10_state R25, R27, 20_memory R60; the canonical forms are the model's, log entries 1 and 16, and that the
registers hold a value from power-on is log entry 23). -/
def Obligations.StepKeepsTheInvariant : Prop :=
  ∀ s t : State, s.Inv → step s = .next t → t.Inv

/-- The state after reset meets the invariant, and so does the state at power-on, for all parameters that 00_scope R5 admits
and whatever values the memory-mapped registers hold then (10_state R50, R52; that they hold one is the model's choice, log
entry 23). -/
def Obligations.ResetMeetsTheInvariant : Prop :=
  State.reset.Inv ∧ ∀ cfg : Config, cfg.wf = true → (State.powerOn cfg).Inv

/-- Every host operation keeps the invariant (70_reset R303, R311 to R321; 60_exceptions R285; 90_conflicts C8). -/
def Obligations.HostOperationsKeepTheInvariant : Prop :=
  ∀ (op : HostAction) (s t : State), s.Inv → hostAct op s = .next t → t.Inv

/-- No step writes the mode, the image bounds, the breakpoints or the parameters, and none requests a stop: 10_state R33,
R41, R42, 00_scope R9. -/
def Obligations.StepKeepsWhatTheHostOwns : Prop :=
  ∀ s t : State, step s = .next t →
    t.cfg = s.cfg ∧ t.mode = s.mode ∧ t.loadAddress = s.loadAddress ∧ t.programSize = s.programSize
    ∧ t.breakpoints = s.breakpoints ∧ t.primary = s.primary
    ∧ (t.stopRequested = true → s.stopRequested = true)

/-- The bank changes in one way only, the write hook: after a step it is as before, or it is bit 14 of the current mode's
flags register as memory then holds it; an instruction that writes no memory leaves it, and so does every host operation
but `step()`: 10_state R21, R23, R51. -/
def Obligations.BankFollowsTheFlagsRegister : Prop :=
  (∀ s t : State, step s = .next t →
    t.bank = s.bank ∨ ∃ f, t.rawLong? s.modeParams.flagsAddr = some f ∧ t.bank = f.getLsbD 14)
  ∧ (∀ (i : Instr) (s t : State), exec i s = .next t → s.mayWriteMemory i = false → t.bank = s.bank)
  ∧ (∀ (op : HostAction) (s t : State), hostAct op s = .next t → op ≠ .step → t.bank = s.bank)

/-- 10_state R26: the rule of an instruction never writes `pc`; an executed instruction moves it by 2 or 6, to the target of
the slot that was pending before it, or, when that target is out of bounds, to the load address by a reset; a skip moves it
by 2 or 6; no other host operation moves it but by a reset. -/
def Obligations.PcChangesInFourWays : Prop :=
  (∀ (i : Instr) (s t : State), exec i s = .next t → t.pc = s.pc)
  ∧ (∀ s t : State, executeNext s = .next t →
      t.pc = s.pc + 2 ∨ t.pc = s.pc + 6
      ∨ (s.ds.pending = true ∧ t.pc = s.ds.target ∧ t.ds.pending = false)
      ∨ (s.ds.pending = true ∧ (s.ds.target.getLsbD 31 = true ∨ s.cfg.memSize < s.ds.target.toNat + 2)
        ∧ t.pc = s.loadAddress ∧ t.ds = { target := 0, pending := false }))
  ∧ (∀ s t : State, skipNext s = .next t → t.pc = s.pc + 2 ∨ t.pc = s.pc + 6)
  ∧ (∀ (op : HostAction) (s t : State), hostAct op s = .next t → op ≠ .step → op ≠ .skip →
      t.pc = s.pc ∨ t.pc = t.loadAddress)

/-- No instruction but `moveta` writes the bank that is not current, and none writes a register other than the one its
field `B` names: 10_state R20, R21. -/
def Obligations.OnlyTheNamedRegisterIsWritten : Prop :=
  ∀ (i : Instr) (s t : State), exec i s = .next t →
    (∀ k r, r ≠ i.fieldB → t.reg k r = s.reg k r)
    ∧ ((¬ ∃ a b, i = .moveta a b) → ∀ r, t.reg (!s.bank) r = s.reg (!s.bank) r)

/-- No instruction but a store, and `div` in GPU mode, changes a byte of memory; no instruction writes a flag but those of
the arithmetic, logical and shift families, and of those the transparent forms and `div` write none: 10_state R28, R29,
20_memory R61 (D12). -/
def Obligations.OnlyListedInstructionsWriteMemoryOrFlags : Prop :=
  ∀ (i : Instr) (s t : State), exec i s = .next t →
    (s.mayWriteMemory i = false → MemSame s t)
    ∧ (i.kind ∈ [.addqt, .subqt, .div, .move, .moveq, .movei, .movePc, .moveta, .movefa,
          .loadb, .loadw, .load, .loadR14n, .loadR15n, .loadR14rm, .loadR15rm,
          .storeb, .storew, .store, .storeR14n, .storeR15n, .storeR14rm, .storeR15rm,
          .jump, .jr, .nop, .packUnpack, .unknown] → FlagsSame s t)
    ∧ (i.kind ∈ [.and, .or, .xor, .not, .bset, .bclr, .mult, .imult, .sat8, .sat16, .sat24] → t.c = s.c)
    ∧ (i.kind = .btst → t.n = s.n ∧ t.c = s.c)

/-- There are no traps: every instruction completes, but for one that meets a byte of memory nothing has written, which is
the model's one fault (log entry 1); in a state that meets the invariant that can only be a load, since the write hook of a store
and of `div` finds a value in every register it reads; under admitted parameters a step is never refused: 60_exceptions R270,
R280. -/
def Obligations.EveryInstructionCompletesOrMeetsAnUnwrittenByte : Prop :=
  (∀ (i : Instr) (s : State),
    (∃ t, exec i s = .next t) ∨ ∃ a, exec i s = .fault (.unwrittenByte a) ∧ s.mem.read a = none)
  ∧ (∀ (i : Instr) (s : State), s.Inv → s.loadOperand i = none → ∃ t, exec i s = .next t)
  ∧ (∀ (s : State) (r : Refusal), s.cfg.wf = true → step s ≠ .refused r)

/-- The state without its report channel and without the switch that silences alignment warnings. -/
def Sys2Proof.Machine.State.unreported (s : State) : State :=
  { s with reports := [], cfg := { s.cfg with suppressAlignWarn := false } }

/-- Reports are invisible to the machine: two states that differ only in the reports made so far and in
SUPPRESS_ALIGN_WARN step alike, but for the reports: 60_exceptions R260, R261. -/
def Obligations.ReportsNeverChangeAResult : Prop :=
  ∀ s t : State, s.unreported = t.unreported →
    match step s, step t with
    | .next s', .next t' => s'.unreported = t'.unreported
    | .fault f, .fault g => f = g
    | .refused r, .refused q => r = q
    | _, _ => False

/-! ### Memory -/

/-- 20_memory R64: a misaligned access is the access at the address with its low bits cleared, after one advisory report
unless warnings are suppressed; an aligned access makes no such report. -/
def Obligations.MisalignedAccessIsMasked : Prop :=
  ∀ (s : State) (w : Width) (addr v : Long),
    (alignDown w addr).toNat = addr.toNat - addr.toNat % widthBytes w
    ∧ (addr.toNat % widthBytes w = 0 → alignDown w addr = addr ∧ s.noteAlignment w addr = s)
    ∧ (addr.toNat % widthBytes w ≠ 0 → s.cfg.suppressAlignWarn = true →
        s.memRead w addr = s.memRead w (alignDown w addr) ∧ s.memWrite w addr v = s.memWrite w (alignDown w addr) v)
    ∧ (addr.toNat % widthBytes w ≠ 0 → s.cfg.suppressAlignWarn = false →
        s.memRead w addr = (s.report (.alignmentWarning addr (widthBytes w))).memRead w (alignDown w addr)
        ∧ s.memWrite w addr v = (s.report (.alignmentWarning addr (widthBytes w))).memWrite w (alignDown w addr) v)

/-- 20_memory R65: an out-of-bounds access is reported; a read returns the sentinel and a write changes no byte and runs no
hook; nothing else changes and execution goes on. That the sentinel has 32 bits at every width is D16. -/
def Obligations.OutOfBoundsAccessIsReported : Prop :=
  ∀ (s : State) (w : Width) (addr v : Long),
    ((alignDown w addr).getLsbD 31 = true ∨ s.cfg.memSize < (alignDown w addr).toNat + widthBytes w) →
    s.memRead w addr = .ok (0xFFFFFFFF, { s with reports := s.reports ++ boundsReports s w addr })
    ∧ s.memWrite w addr v = .ok { s with reports := s.reports ++ boundsReports s w addr }

/-- What a successful write stores is read back at every width, big-endian: the same width gives the value truncated to it,
and byte `k` of the operand is its `k`-th most significant byte: 20_memory R62, R71, R85 (D5). -/
def Obligations.StoredValueIsReadBack : Prop :=
  ∀ (s t : State) (w : Width) (addr v : Long), s.memWrite w addr v = .ok t →
    s.outOfBounds (alignDown w addr) (widthBytes w) = false →
    (∃ x u, t.memRead w addr = .ok (x, u) ∧ x.toNat = v.toNat % 2 ^ (8 * widthBytes w))
    ∧ (∀ k, k < widthBytes w →
        t.mem.read ((alignDown w addr).toNat + k) = some ((v >>> (8 * (widthBytes w - 1 - k))).setWidth 8))

/-- The loads, in bounds and of written bytes: the destination gets the big-endian value, zero-extended; nothing else
changes but the advisory reports. loadb loadw load, load (r14+n) (r15+n) (r14+rM) (r15+rM): 43_load_store R185 to R191,
R199 (D3, D27, D28). -/
def Obligations.LoadsReadBigEndianAndZeroExtend : Prop :=
  ∀ (i : Instr) (s : State) (w : Width) (ea : Long) (b : Reg) (bs : List Byte),
    s.loadOperand i = some (w, ea, b) → s.outOfBounds (alignDown w ea) (widthBytes w) = false →
    bs.length = widthBytes w →
    (∀ k : Nat, ∀ h : k < bs.length, s.mem.read ((alignDown w ea).toNat + k) = some bs[k]) →
    ∃ t, exec i s = .next t ∧ (t.reg s.bank b).toNat = bigEndian bs
      ∧ RegsSameBut s t s.bank b ∧ FlagsSame s t ∧ MemSame s t ∧ HostStateSame s t
      ∧ t.bank = s.bank ∧ t.ds = s.ds ∧ t.selfStop = s.selfStop
      ∧ t.reports = s.reports ++ advisories s w ea

/-- The loads, out of bounds: the destination gets `0xFFFFFFFF` at every width, and the reports are made: 43_load_store R199
(7) (D16; log entry 2). -/
def Obligations.LoadsOutOfBoundsGiveTheSentinel : Prop :=
  ∀ (i : Instr) (s : State) (w : Width) (ea : Long) (b : Reg),
    s.loadOperand i = some (w, ea, b) → s.outOfBounds (alignDown w ea) (widthBytes w) = true →
    ∃ t, exec i s = .next t ∧ t.reg s.bank b = 0xFFFFFFFF
      ∧ RegsSameBut s t s.bank b ∧ FlagsSame s t ∧ MemSame s t ∧ HostStateSame s t
      ∧ t.bank = s.bank ∧ t.ds = s.ds ∧ t.selfStop = s.selfStop
      ∧ t.reports = s.reports ++ boundsReports s w ea

/-- The model's choice (log entry 1; 93 U1, 92 D35): a load that reads a byte nothing has written faults, naming the lowest
such byte; a store, and a `div` in GPU mode, would fault if the write hook did not find a value where it reads, which is so
in no state that meets the invariant (EveryInstructionCompletesOrMeetsAnUnwrittenByte); a step that
executes an instruction faults when a byte of the opcode word, or of an extension word of a `movei`, has no value, and a skip
when a byte of the opcode word has none. -/
def Obligations.UnwrittenBytesFault : Prop :=
  (∀ (i : Instr) (s : State) (w : Width) (ea : Long) (b : Reg) (k : Nat),
    s.loadOperand i = some (w, ea, b) → s.outOfBounds (alignDown w ea) (widthBytes w) = false →
    k < widthBytes w → s.mem.read ((alignDown w ea).toNat + k) = none →
    (∀ j, j < k → (s.mem.read ((alignDown w ea).toNat + j)).isSome = true) →
    exec i s = .fault (.unwrittenByte ((alignDown w ea).toNat + k)))
  ∧ (∀ (i : Instr) (s : State) (w : Width) (ea : Long) (b : Reg),
    s.storeOperand i = some (w, ea, b) → s.outOfBounds (alignDown w ea) (widthBytes w) = false →
    ¬ s.hookReady w ea (s.x b) →
    ∃ x, exec i s = .fault (.unwrittenByte x) ∧ s.mem.read x = none)
  ∧ (∀ (s : State) (a b : Reg), s.cfg.wf = true → s.mode = .gpu →
    ¬ s.hookReady .long s.cfg.remainAddr (divAdjusted (s.x b) (s.x a)) →
    ∃ x, exec (.div a b) s = .fault (.unwrittenByte x) ∧ s.mem.read x = none)
  ∧ (∀ (s : State) (k : Nat), s.cfg.wf = true → s.pc.getLsbD 0 = false → s.pc.toNat + 2 * (k / 2) + 2 ≤ s.cfg.memSize →
    s.mem.read (s.pc.toNat + k) = none →
    (∀ j, j < k → (s.mem.read (s.pc.toNat + j)).isSome = true) →
    (k < 2 ∨ (k < 6 ∧ ∃ h l, s.mem.read s.pc.toNat = some h ∧ s.mem.read (s.pc.toNat + 1) = some l
      ∧ s.cfg.opcodeMap.select (opField (h ++ l)) = .movei)) →
    (s.runState = .idle → step s = .fault (.unwrittenByte (s.pc.toNat + k)))
    ∧ (s.runState = .running → s.stopRequested = false → s.pc ∉ s.breakpoints →
        s.pc.toNat < s.loadAddress.toNat + s.programSize → step s = .fault (.unwrittenByte (s.pc.toNat + k)))
    ∧ (s.runState = .idle → k < 2 → hostAct .skip s = .fault (.unwrittenByte (s.pc.toNat + k))))

/-- The stores, in bounds, when the write hook finds values where it reads: the operand's bytes are stored big-endian at the
masked effective address and every other byte is as before; the bank becomes bit 14 of the flags register of the current
mode, the GPU-mode one in GPU mode and the DSP-mode one in DSP mode (10_state R33, R34);
during a run an enable bit that reads 0 sets `self_stop` and is reported; no register, no flag changes. storeb storew store,
store (r14+n) (r15+n) (r14+rM) (r15+rM): 43_load_store R192 to R199, 20_memory R71, R76, R77 (D3, D20, D28). -/
def Obligations.StoresWriteBytesAndRunTheHook : Prop :=
  ∀ (i : Instr) (s : State) (w : Width) (ea : Long) (b : Reg),
    s.storeOperand i = some (w, ea, b) → s.outOfBounds (alignDown w ea) (widthBytes w) = false →
    s.hookReady w ea (s.x b) →
    ∃ t, exec i s = .next t
      ∧ (∀ k, k < widthBytes w →
          t.mem.read ((alignDown w ea).toNat + k) = some ((s.x b >>> (8 * (widthBytes w - 1 - k))).setWidth 8))
      ∧ MemSameOutside s t (alignDown w ea).toNat (widthBytes w)
      ∧ (s.mode = .gpu → ∃ f, t.rawLong? s.cfg.gpu.flagsAddr = some f ∧ t.bank = f.getLsbD 14)
      ∧ (s.mode = .dsp → ∃ f, t.rawLong? s.cfg.dsp.flagsAddr = some f ∧ t.bank = f.getLsbD 14)
      ∧ RegsSame s t ∧ FlagsSame s t ∧ HostStateSame s t ∧ t.ds = s.ds
      ∧ (s.stopsItself w ea (s.x b) →
          t.selfStop = true ∧ t.reports = s.reports ++ advisories s w ea ++ [.selfStop])
      ∧ (¬ s.stopsItself w ea (s.x b) →
          t.selfStop = s.selfStop ∧ t.reports = s.reports ++ advisories s w ea)

/-- The stores, out of bounds: reported and dropped; no byte changes and the hook does not run: 20_memory R71, 43_load_store
R199 (7) (90_conflicts C5; log entry 2). -/
def Obligations.StoresOutOfBoundsAreDropped : Prop :=
  ∀ (i : Instr) (s : State) (w : Width) (ea : Long) (b : Reg),
    s.storeOperand i = some (w, ea, b) → s.outOfBounds (alignDown w ea) (widthBytes w) = true →
    exec i s = .next { s with reports := s.reports ++ boundsReports s w ea }

/-- The effective addresses wrap modulo 2^32: base plus 4 times the quick offset, or base plus the index register unscaled:
30_encoding R109, 43_load_store R188 to R191, R199 (1) (D28). -/
def Obligations.EffectiveAddressesWrap : Prop :=
  ∀ (s : State) (base a : Reg),
    (s.offsetAddr base a).toNat = ((s.x base).toNat + 4 * quickValue a) % 2 ^ 32
    ∧ (s.indexAddr base a).toNat = ((s.x base).toNat + (s.x a).toNat) % 2 ^ 32

/-! ### Arithmetic -/

/-- What an add leaves: the 32-bit sum, the carry out of bit 31 of the unsigned sum, `Z` and `N` of the result, and all else
unchanged (40_arithmetic R130). -/
def Sys2Proof.Machine.AddsTo (s t : State) (b : Reg) (y cin : Nat) : Prop :=
  (t.reg s.bank b).toNat = ((s.x b).toNat + y + cin) % 2 ^ 32
  ∧ (t.c = true ↔ 2 ^ 32 ≤ (s.x b).toNat + y + cin)
  ∧ ZNFrom t (t.reg s.bank b) ∧ OnlyRegAndFlags s t s.bank b

/-- add, addc, addq: 40_arithmetic R131 to R133, R130 (D3, D4, D12). -/
def Obligations.AddResultsAndFlags : Prop :=
  ∀ (s : State) (a b : Reg),
    (∃ t, exec (.add a b) s = .next t ∧ AddsTo s t b (s.x a).toNat 0)
    ∧ (∃ t, exec (.addc a b) s = .next t ∧ AddsTo s t b (s.x a).toNat s.c.toNat)
    ∧ (∃ t, exec (.addq a b) s = .next t ∧ AddsTo s t b (quickValue a) 0)

/-- What a subtract leaves: the difference modulo 2^32, the unsigned borrow, `Z` and `N` of the result, and all else
unchanged (40_arithmetic R130). -/
def Sys2Proof.Machine.SubtractsFrom (s t : State) (b : Reg) (x y bin : Nat) : Prop :=
  ((t.reg s.bank b).toNat : Int) = ((x : Int) - y - bin) % 2 ^ 32
  ∧ (t.c = true ↔ (x : Int) - y - bin < 0)
  ∧ ZNFrom t (t.reg s.bank b) ∧ OnlyRegAndFlags s t s.bank b

/-- sub, subc, subq, neg: 40_arithmetic R135 to R137, R139, R130 (D3, D4, D12). -/
def Obligations.SubtractResultsAndFlags : Prop :=
  ∀ (s : State) (a b : Reg),
    (∃ t, exec (.sub a b) s = .next t ∧ SubtractsFrom s t b (s.x b).toNat (s.x a).toNat 0)
    ∧ (∃ t, exec (.subc a b) s = .next t ∧ SubtractsFrom s t b (s.x b).toNat (s.x a).toNat s.c.toNat)
    ∧ (∃ t, exec (.subq a b) s = .next t ∧ SubtractsFrom s t b (s.x b).toNat (quickValue a) 0)
    ∧ (∃ t, exec (.neg a b) s = .next t ∧ SubtractsFrom s t b 0 (s.x b).toNat 0)

/-- addqt, subqt: as the quick forms, without the flags: 40_arithmetic R134, R138 (D12). -/
def Obligations.TransparentQuickFormsKeepFlags : Prop :=
  ∀ (s : State) (a : Field) (b : Reg),
    (∃ t, exec (.addqt a b) s = .next t
      ∧ (t.reg s.bank b).toNat = ((s.x b).toNat + quickValue a) % 2 ^ 32 ∧ OnlyReg s t s.bank b)
    ∧ (∃ t, exec (.subqt a b) s = .next t
      ∧ ((t.reg s.bank b).toNat : Int) = (((s.x b).toNat : Int) - quickValue a) % 2 ^ 32 ∧ OnlyReg s t s.bank b)

/-- abs: the magnitude, `C` the old sign; the most negative number stays, with `N` set: 40_arithmetic R140 (D3, D12). -/
def Obligations.AbsResultAndFlags : Prop :=
  ∀ (s : State) (a : Field) (b : Reg),
    ∃ t, exec (.abs a b) s = .next t
      ∧ (t.reg s.bank b).toNat = (s.x b).toInt.natAbs
      ∧ (t.c = true ↔ (s.x b).toInt < 0)
      ∧ (t.z = true ↔ s.x b = 0) ∧ (t.n = true ↔ s.x b = 0x80000000)
      ∧ OnlyRegAndFlags s t s.bank b

/-- What a comparison of `x` with `y` leaves: `Z` when equal, `C` when `x` is below `y` unsigned, `N` the sign of the wrapped
difference (40_arithmetic R141). -/
def Sys2Proof.Machine.Compares (s t : State) (x y : Long) : Prop :=
  (t.z = true ↔ x = y) ∧ (t.c = true ↔ x.toNat < y.toNat) ∧ (t.n = true ↔ (x - y).toInt < 0) ∧ OnlyFlags s t

/-- cmp, cmpq: flags only; the immediate is signed: 40_arithmetic R141, R142, 30_encoding R107 (D3, D4, D12, D18). -/
def Obligations.CompareFlags : Prop :=
  ∀ (s : State) (a b : Reg),
    (∃ t, exec (.cmp a b) s = .next t ∧ Compares s t (s.x b) (s.x a))
    ∧ (∃ t, exec (.cmpq a b) s = .next t ∧ Compares s t (s.x b) (BitVec.ofInt 32 (signedValue a)))

/-- div in GPU mode, when the write hook finds values where it reads: the unsigned quotient, 0 for divisor 0; the remainder
register reconciles by the odd and even rule and is 0 for divisor 0; no other byte, no flag changes; the hook re-derives the
bank and can stop the run: 40_arithmetic R143 (D4, D12, D23). -/
def Obligations.DivideInGpuMode : Prop :=
  ∀ (s : State) (a b : Reg), s.cfg.wf = true → s.mode = .gpu →
    s.hookReady .long s.cfg.remainAddr (divAdjusted (s.x b) (s.x a)) →
    ∃ t q adj, exec (.div a b) s = .next t
      ∧ t.reg s.bank b = q ∧ t.rawLong? s.cfg.remainAddr = some adj
      ∧ (s.x a = 0 → q = 0 ∧ adj = 0)
      ∧ (s.x a ≠ 0 → q.toNat = (s.x b).toNat / (s.x a).toNat
          ∧ (q.toNat % 2 = 1 → q.toNat * (s.x a).toNat + adj.toNat = (s.x b).toNat)
          ∧ (q.toNat % 2 = 0 → (q.toNat * (s.x a).toNat + adj.toNat + (s.x a).toNat) % 2 ^ 32 = (s.x b).toNat)
          ∧ (q.toNat % 2 = 1 → adj.toNat < (s.x a).toNat))
      ∧ RegsSameBut s t s.bank b ∧ FlagsSame s t ∧ MemSameOutside s t s.cfg.remainAddr.toNat 4
      ∧ (∃ f, t.rawLong? s.cfg.gpu.flagsAddr = some f ∧ t.bank = f.getLsbD 14)
      ∧ HostStateSame s t ∧ t.ds = s.ds
      ∧ (s.stopsItself .long s.cfg.remainAddr (divAdjusted (s.x b) (s.x a)) →
          t.selfStop = true ∧ t.reports = s.reports ++ [.selfStop])
      ∧ (¬ s.stopsItself .long s.cfg.remainAddr (divAdjusted (s.x b) (s.x a)) →
          t.selfStop = s.selfStop ∧ t.reports = s.reports)

/-- div in DSP mode: the quotient, and nothing else; the remainder register is GPU mode only: 40_arithmetic R143, 10_state
R36 (D23). -/
def Obligations.DivideInDspMode : Prop :=
  ∀ (s : State) (a b : Reg), s.mode = .dsp →
    ∃ t, exec (.div a b) s = .next t
      ∧ (t.reg s.bank b).toNat = (s.x b).toNat / (s.x a).toNat ∧ OnlyReg s t s.bank b

/-- mult, imult: the 32-bit product of the low halves, unsigned and signed; `Z`, `N` written, `C` kept: 40_arithmetic R144,
R145 (D4, D30). -/
def Obligations.MultiplyLowHalves : Prop :=
  ∀ (s : State) (a b : Reg),
    (∃ t, exec (.mult a b) s = .next t
      ∧ (t.reg s.bank b).toNat = ((s.x b).toNat % 65536) * ((s.x a).toNat % 65536)
      ∧ ZNFrom t (t.reg s.bank b) ∧ t.c = s.c ∧ OnlyRegAndFlags s t s.bank b)
    ∧ (∃ t, exec (.imult a b) s = .next t
      ∧ (t.reg s.bank b).toInt = ((s.x b).extractLsb' 0 16).toInt * ((s.x a).extractLsb' 0 16).toInt
      ∧ ZNFrom t (t.reg s.bank b) ∧ t.c = s.c ∧ OnlyRegAndFlags s t s.bank b)

/-- What a saturation to `[0, hi]` leaves (40_arithmetic R146): the nearest value of the range to the signed operand. -/
def Sys2Proof.Machine.SaturatesTo (s t : State) (b : Reg) (hi : Nat) : Prop :=
  (t.reg s.bank b).toInt = max 0 (min (hi : Int) (s.x b).toInt)
  ∧ (t.z = true ↔ (s.x b).toInt ≤ 0) ∧ t.n = false ∧ t.c = s.c ∧ OnlyRegAndFlags s t s.bank b

/-- sat8, sat16, sat24: 40_arithmetic R146 to R148 (D12). -/
def Obligations.SaturationClampsTheSignedValue : Prop :=
  ∀ (s : State) (a : Field) (b : Reg),
    (∃ t, exec (.sat8 a b) s = .next t ∧ SaturatesTo s t b 255)
    ∧ (∃ t, exec (.sat16 a b) s = .next t ∧ SaturatesTo s t b 65535)
    ∧ (∃ t, exec (.sat24 a b) s = .next t ∧ SaturatesTo s t b 16777215)

/-! ### Logical and bit instructions -/

/-- What a logical instruction leaves: each bit of the result, `Z`, `N`, `C` kept, and all else unchanged (41_logical
R160). -/
def Sys2Proof.Machine.BitsAre (s t : State) (b : Reg) (bit : Nat → Bool) : Prop :=
  (∀ k, k < 32 → (t.reg s.bank b).getLsbD k = bit k)
  ∧ ZNFrom t (t.reg s.bank b) ∧ t.c = s.c ∧ OnlyRegAndFlags s t s.bank b

/-- and, or, xor, not: 41_logical R160 to R164 (D3, D4, D12). -/
def Obligations.LogicalResultsAreBitwise : Prop :=
  ∀ (s : State) (a b : Reg),
    (∃ t, exec (.and a b) s = .next t ∧ BitsAre s t b (fun k => (s.x b).getLsbD k && (s.x a).getLsbD k))
    ∧ (∃ t, exec (.or a b) s = .next t ∧ BitsAre s t b (fun k => (s.x b).getLsbD k || (s.x a).getLsbD k))
    ∧ (∃ t, exec (.xor a b) s = .next t ∧ BitsAre s t b (fun k => (s.x b).getLsbD k ^^ (s.x a).getLsbD k))
    ∧ (∃ t, exec (.not a b) s = .next t ∧ BitsAre s t b (fun k => !(s.x b).getLsbD k))

/-- btst, bset, bclr: bit `A`, 0 to 31; btst writes `Z` alone: 41_logical R165 to R167 (D3, D12, D18). -/
def Obligations.BitInstructionsTouchOneBit : Prop :=
  ∀ (s : State) (a : Field) (b : Reg),
    (∃ t, exec (.btst a b) s = .next t ∧ (t.z = true ↔ (s.x b).getLsbD a.toNat = false)
      ∧ t.n = s.n ∧ t.c = s.c ∧ OnlyFlags s t)
    ∧ (∃ t, exec (.bset a b) s = .next t ∧ BitsAre s t b (fun k => k == a.toNat || (s.x b).getLsbD k)
      ∧ t.z = false)
    ∧ (∃ t, exec (.bclr a b) s = .next t ∧ BitsAre s t b (fun k => k != a.toNat && (s.x b).getLsbD k))

/-! ### Shifts -/

/-- What a shift leaves: each bit of the result, the carry, `Z`, `N`, and all else unchanged (42_shift R171). -/
def Sys2Proof.Machine.ShiftsTo (s t : State) (b : Reg) (bit : Nat → Bool) (carry : Bool) : Prop :=
  (∀ k, k < 32 → (t.reg s.bank b).getLsbD k = bit k)
  ∧ t.c = carry ∧ ZNFrom t (t.reg s.bank b) ∧ OnlyRegAndFlags s t s.bank b

/-- sh, sha: a register amount from -32 to 32 shifts right when not negative, `sha` with the sign, and left when negative;
any other amount acts as 0: 42_shift R170 to R174 (D4, D13; the shift by exactly 32 is log entry 4). -/
def Obligations.RegisterShifts : Prop :=
  ∀ (s : State) (a b : Reg),
    ∃ t u, exec (.sh a b) s = .next t ∧ exec (.sha a b) s = .next u
      ∧ (0 ≤ (s.x a).toInt ∧ (s.x a).toInt ≤ 32 →
          ShiftsTo s t b (fun k => (s.x b).getLsbD (k + (s.x a).toNat)) ((s.x b).getLsbD 0)
          ∧ ShiftsTo s u b (fun k => (s.x b).getLsbD (min 31 (k + (s.x a).toNat))) ((s.x b).getLsbD 0))
      ∧ (-32 ≤ (s.x a).toInt ∧ (s.x a).toInt < 0 →
          ShiftsTo s t b (fun k => decide ((s.x a).toInt.natAbs ≤ k) && (s.x b).getLsbD (k - (s.x a).toInt.natAbs))
            ((s.x b).getLsbD 31)
          ∧ ShiftsTo s u b (fun k => decide ((s.x a).toInt.natAbs ≤ k) && (s.x b).getLsbD (k - (s.x a).toInt.natAbs))
            ((s.x b).getLsbD 31))
      ∧ ((s.x a).toInt < -32 ∨ 32 < (s.x a).toInt →
          ShiftsTo s t b (fun k => (s.x b).getLsbD k) ((s.x b).getLsbD 0)
          ∧ ShiftsTo s u b (fun k => (s.x b).getLsbD k) ((s.x b).getLsbD 0))

/-- shlq by `32 - A`, shrq and sharq by the quick count: 42_shift R175 to R177, 30_encoding R105, R108 (D13, D18; the count 32
is log entry 4). -/
def Obligations.QuickShifts : Prop :=
  ∀ (s : State) (a : Field) (b : Reg),
    (∃ t, exec (.shlq a b) s = .next t
      ∧ ShiftsTo s t b (fun k => decide (32 ≤ k + a.toNat) && (s.x b).getLsbD (k + a.toNat - 32)) ((s.x b).getLsbD 31))
    ∧ (∃ t, exec (.shrq a b) s = .next t
      ∧ ShiftsTo s t b (fun k => (s.x b).getLsbD (k + quickValue a)) ((s.x b).getLsbD 0))
    ∧ (∃ t, exec (.sharq a b) s = .next t
      ∧ ShiftsTo s t b (fun k => (s.x b).getLsbD (min 31 (k + quickValue a))) ((s.x b).getLsbD 0))

/-- ror, rorq: to the right by the amount modulo 32, an amount outside -32 to 32 acting as 0; `C` is the old bit 31: 42_shift
R170 to R172, R178, R179 (D4, D13, D18). -/
def Obligations.Rotates : Prop :=
  ∀ (s : State) (a b : Reg),
    (∃ t, exec (.ror a b) s = .next t
      ∧ (-32 ≤ (s.x a).toInt ∧ (s.x a).toInt ≤ 32 →
          ShiftsTo s t b (fun k => (s.x b).getLsbD ((k + (s.x a).toNat) % 32)) ((s.x b).getLsbD 31))
      ∧ ((s.x a).toInt < -32 ∨ 32 < (s.x a).toInt →
          ShiftsTo s t b (fun k => (s.x b).getLsbD k) ((s.x b).getLsbD 31)))
    ∧ (∃ t, exec (.rorq a b) s = .next t
      ∧ ShiftsTo s t b (fun k => (s.x b).getLsbD ((k + quickValue a) % 32)) ((s.x b).getLsbD 31))

/-! ### Moves and packing -/

/-- move, moveq, movei, move pc: 44_move R210 to R213 (D3, D4, D6, D18); `pc` is the advanced one. -/
def Obligations.MovesWriteOneRegister : Prop :=
  ∀ (s : State) (a b : Reg) (imm : Long),
    (∃ t, exec (.move a b) s = .next t ∧ t.reg s.bank b = s.x a ∧ OnlyReg s t s.bank b)
    ∧ (∃ t, exec (.moveq a b) s = .next t ∧ (t.reg s.bank b).toNat = a.toNat ∧ OnlyReg s t s.bank b)
    ∧ (∃ t, exec (.movei a b imm) s = .next t ∧ t.reg s.bank b = imm ∧ OnlyReg s t s.bank b)
    ∧ (∃ t, exec (.movePc a b) s = .next t
        ∧ ((t.reg s.bank b).toNat + 2) % 2 ^ 32 = s.pc.toNat ∧ OnlyReg s t s.bank b)

/-- moveta writes the other bank from the current one, movefa the current bank from the other: 44_move R214, R215 (D34). -/
def Obligations.BankCrossingMoves : Prop :=
  ∀ (s : State) (a b : Reg),
    (∃ t, exec (.moveta a b) s = .next t ∧ t.reg (!s.bank) b = s.reg s.bank a ∧ OnlyReg s t (!s.bank) b)
    ∧ (∃ t, exec (.movefa a b) s = .next t ∧ t.reg s.bank b = s.reg (!s.bank) a ∧ OnlyReg s t s.bank b)

/-- pack gathers bits 25 to 22, 16 to 13 and 7 to 0; unpack spreads them; each is the other's inverse on what it keeps:
46_pack R250, R251 (D3, D12, D29). -/
def Obligations.PackAndUnpackFields : Prop :=
  ∀ (s : State) (b : Reg),
    ∃ t u, exec (.pack b) s = .next t ∧ exec (.unpack b) s = .next u
      ∧ (∀ k, k < 32 → (t.reg s.bank b).getLsbD k =
          if k < 8 then (s.x b).getLsbD k
          else if k < 12 then (s.x b).getLsbD (k + 5)
          else if k < 16 then (s.x b).getLsbD (k + 10)
          else false)
      ∧ (∀ k, k < 32 → (u.reg s.bank b).getLsbD k =
          if k < 8 then (s.x b).getLsbD k
          else if 13 ≤ k ∧ k < 17 then (s.x b).getLsbD (k - 5)
          else if 22 ≤ k ∧ k < 26 then (s.x b).getLsbD (k - 10)
          else false)
      ∧ OnlyReg s t s.bank b ∧ OnlyReg s u s.bank b
      ∧ (∃ v, exec (.pack b) u = .next v ∧ (v.reg s.bank b).toNat = (s.x b).toNat % 65536)

/-! ### Control -/

/-- jump, jr: when the condition matches, the target is recorded and the slot pending, replacing a pending one; when it does
not, both are left; `pc`, registers, flags and memory are not written. A jump's target is the register with bit 0 cleared, a
jr's is the advanced `pc` plus twice the signed field: 45_control R226, R227, 10_state R31 (D4, D10, D11). -/
def Obligations.BranchesRecordTheirTarget : Prop :=
  ∀ (s : State) (a b : Field),
    ∃ t u, exec (.jump a b) s = .next t ∧ exec (.jr a b) s = .next u
      ∧ (s.condMatch b = true →
          t.ds.pending = true ∧ t.ds.target.toNat = (s.x a).toNat - (s.x a).toNat % 2
          ∧ u.ds.pending = true ∧ (u.ds.target.toNat : Int) = ((s.pc.toNat : Int) + 2 * signedValue a) % 2 ^ 32)
      ∧ (s.condMatch b = false → t.ds = s.ds ∧ u.ds = s.ds)
      ∧ RegsSame s t ∧ FlagsSame s t ∧ MemSame s t ∧ HostStateSame s t
      ∧ t.bank = s.bank ∧ t.selfStop = s.selfStop ∧ t.reports = s.reports
      ∧ RegsSame s u ∧ FlagsSame s u ∧ MemSame s u ∧ HostStateSame s u
      ∧ u.bank = s.bank ∧ u.selfStop = s.selfStop ∧ u.reports = s.reports

/-- Under the default condition table a value of the field matches exactly when 45_control R228 lists it and its flag
combination holds (D10; log entry 8). -/
def Obligations.ConditionsMatchExactly : Prop :=
  ∀ (s : State) (f : Field), s.cfg.condTable = defaultCondTable →
    (s.condMatch f = true ↔ matchesWhen f.toNat s.z s.n s.c)

/-- nop changes nothing; an UNKNOWN word makes its report, with the word and its address, and changes nothing else:
45_control R229, R230 (D3, D14; log entry 3). -/
def Obligations.NopAndUnknownChangeNothing : Prop :=
  ∀ (s : State) (op : Opcode) (a b : Field),
    exec (.nop a b) s = .next s
    ∧ ∃ w : Word, w.toNat = op.toNat * 1024 + a.toNat * 32 + b.toNat
      ∧ exec (.unknown op a b) s = .next { s with reports := s.reports ++ [.unknownOpcode w (s.pc - 2)] }

/-! ### The host -/

/-- `reset()` of an idle machine writes the reset values and leaves the bank, the memory, the mode, the image bounds and the
breakpoints: 10_state R50, R51, 70_reset R300, R312 (D15). -/
def Obligations.ResetWritesOnlyItsList : Prop :=
  ∀ s : State, s.cfg.wf = true → s.runState = .idle →
    ∃ t, hostAct .reset s = .next t
      ∧ (∀ k r, t.reg k r = 0) ∧ t.z = false ∧ t.n = false ∧ t.c = false ∧ t.pc = s.loadAddress
      ∧ t.ds = { target := 0, pending := false } ∧ t.runState = .idle ∧ t.selfStop = false ∧ t.stopRequested = false
      ∧ t.bank = s.bank ∧ t.mem = s.mem ∧ t.mode = s.mode ∧ t.loadAddress = s.loadAddress
      ∧ t.programSize = s.programSize ∧ t.breakpoints = s.breakpoints ∧ t.primary = s.primary
      ∧ t.reports = s.reports ∧ t.cfg = s.cfg

/-- An accepted image is copied raw to its load address, whose source is the header when the file starts with the magic and
has 12 bytes, and the core is reset; the bank, the breakpoints and every byte outside the image are as before: 70_reset
R311, 20_memory R90 (D32, D37, D38; the magic is an argument, log entry 15). -/
def Obligations.LoadedImageIsCopiedRaw : Prop :=
  ∀ (s : State) (magic address : Long) (file : List Byte), s.runState ≠ .running →
    (parseImage magic file address).1.getLsbD 0 = false →
    (parseImage magic file address).1.toNat + (parseImage magic file address).2.length ≤ s.cfg.memSize →
    ∃ t, loadBin magic (some file) address s = (true, t)
      ∧ t.loadAddress = (parseImage magic file address).1 ∧ t.pc = t.loadAddress
      ∧ t.programSize = (parseImage magic file address).2.length
      ∧ (∀ k, ∀ h : k < (parseImage magic file address).2.length,
          t.mem.read (t.loadAddress.toNat + k) = some (parseImage magic file address).2[k])
      ∧ MemSameOutside s t t.loadAddress.toNat t.programSize
      ∧ (∀ k r, t.reg k r = 0) ∧ t.z = false ∧ t.n = false ∧ t.c = false
      ∧ t.ds = { target := 0, pending := false } ∧ t.runState = .idle ∧ t.selfStop = false ∧ t.stopRequested = false
      ∧ t.cfg = s.cfg ∧ t.bank = s.bank ∧ t.mode = s.mode ∧ t.breakpoints = s.breakpoints ∧ t.primary = s.primary
      ∧ t.reports = s.reports

/-- A headered file gives its own load address and loses its 12 header bytes; a file that is shorter or does not start with
the magic is plain: 70_reset R311 (D32). -/
def Obligations.ImageHeaderOverridesTheAddress : Prop :=
  ∀ (magic address la : Long) (unused body file : List Byte),
    (unused.length = 4 →
      parseImage magic (storeBytes .long magic ++ storeBytes .long la ++ unused ++ body) address = (la, body))
    ∧ (file.length < 12 ∨ file.take 4 ≠ storeBytes .long magic → parseImage magic file address = (address, file))

/-- The run loop tests a requested stop, then a breakpoint, then the end of the image, and executes nothing when one holds;
otherwise it executes one instruction, and then a self-stop ends the run: 70_reset R316 (D20, D21). -/
def Obligations.RunLoopTestsInOrder : Prop :=
  ∀ s t : State, s.cfg.wf = true → s.runState = .running →
    (s.stopRequested = true → step s = .next (s.stopRunFor .requested))
    ∧ (s.stopRequested = false → s.pc ∈ s.breakpoints → step s = .next (s.stopRunFor .breakpoint))
    ∧ (s.stopRequested = false → s.pc ∉ s.breakpoints → s.loadAddress.toNat + s.programSize ≤ s.pc.toNat →
        step s = .next (s.stopRunFor .endOfImage))
    ∧ (s.stopRequested = false → s.pc ∉ s.breakpoints → s.pc.toNat < s.loadAddress.toNat + s.programSize →
        executeNext s = .next t →
        (t.runState = .running → t.selfStop = true → step s = .next (t.stopRunFor .selfStop))
        ∧ (t.runState ≠ .running ∨ t.selfStop = false → step s = .next t))

/-- 60_exceptions R286: a running machine whose `pc` is in the breakpoint set stops before it fetches, with a pending slot
left pending; an idle machine's step and skip do not test breakpoints. -/
def Obligations.BreakpointStopsBeforeTheFetch : Prop :=
  ∀ s : State, s.cfg.wf = true →
    (s.runState = .running → s.stopRequested = false → s.pc ∈ s.breakpoints →
      step s = .next { s with
        runState := .idle, selfStop := false, stopRequested := false
        reports := s.reports ++ [.stopped .breakpoint] })
    ∧ (s.runState = .idle → ∀ bs : List Long, ∀ op ∈ [HostAction.step, HostAction.skip],
        match hostAct op s, hostAct op { s with breakpoints := bs } with
        | .next t, .next u => u = { t with breakpoints := bs }
        | .fault f, .fault g => f = g
        | _, _ => False)

/-- `run()` starts a run of an idle machine, with `self_stop` and `stop_requested` cleared, and requests a running one to stop;
`stopRun()` ends an active run, reported as requested, and otherwise does nothing: 70_reset R315 to R317. That `run()` itself
executes nothing, the iterations of the loop being steps of their own, is the model's choice (log entry 11). -/
def Obligations.RunTogglesAndStopRunStops : Prop :=
  ∀ s : State, s.cfg.wf = true →
    (s.runState = .idle →
      hostAct .run s = .next { s with runState := .running, selfStop := false, stopRequested := false })
    ∧ (s.runState = .running → hostAct .run s = .next { s with stopRequested := true })
    ∧ (s.runState = .running →
      hostAct .stopRun s = .next { s with
        runState := .idle, selfStop := false, stopRequested := false
        reports := s.reports ++ [.stopped .requested] })
    ∧ (s.runState ≠ .running → hostAct .stopRun s = .next s)

/-- `setBreakpoint` is a toggle: an absent address enters the set and becomes the primary one, a present one leaves it and
clears the primary indicator if it was that; twice restores the set: 60_exceptions R285 (D38). -/
def Obligations.BreakpointToggles : Prop :=
  ∀ (s : State) (a : Long), s.cfg.wf = true → sortedBreakpoints s.breakpoints →
    ∃ t u, hostAct (.setBreakpoint (some a)) s = .next t ∧ hostAct (.setBreakpoint (some a)) t = .next u
      ∧ (a ∈ s.breakpoints →
          (∀ x, x ∈ t.breakpoints ↔ x ∈ s.breakpoints ∧ x ≠ a)
          ∧ (s.primary = some a → t.primary = none) ∧ (s.primary ≠ some a → t.primary = s.primary))
      ∧ (a ∉ s.breakpoints →
          (∀ x, x ∈ t.breakpoints ↔ x ∈ s.breakpoints ∨ x = a) ∧ t.primary = some a
          ∧ u.hasBreakpoint a = false ∧ u.primary = none)
      ∧ u.breakpoints = s.breakpoints

/-- `editRegister` writes the register of the bank it names, truncated to 32 bits, when bank and index are in range, and is
rejected otherwise; `setMode` changes the mode alone; both when not running: 70_reset R320, R321 (D24, D33). -/
def Obligations.HostEditsRegistersAndMode : Prop :=
  ∀ (s : State) (bank index : Nat) (value : Int) (primary : Bool), s.cfg.wf = true → s.runState ≠ .running →
    (bank < 2 → index < 32 →
      ∃ t, hostAct (.editRegister (some (bank, index, value))) s = .next t
        ∧ ((t.reg (decide (bank = 1)) (BitVec.ofNat 5 index)).toNat : Int) = value % 2 ^ 32
        ∧ OnlyReg s t (decide (bank = 1)) (BitVec.ofNat 5 index))
    ∧ (2 ≤ bank ∨ 32 ≤ index →
      hostAct (.editRegister (some (bank, index, value))) s
        = .next { s with reports := s.reports ++ [.rejected .registerEdit] })
    ∧ hostAct (.setMode primary) s = .next { s with mode := if primary then .gpu else .dsp }

/-- A host operation that the run state does not enable is reported, and the prior state is unchanged: without an image
reset, step, skip and run; while running loadBin, reset, step, skip, editRegister and setMode: 70_reset R310, 60_exceptions
R260 (D33). So is one whose input is refused: a load at an odd address or of an image that does not fit, an unreadable file,
a malformed register edit, breakpoint text that does not parse: 70_reset R303, R311, R320, 60_exceptions R260, R285 (D32;
inputs come parsed, log entry 19). -/
def Obligations.DisabledHostOperationsAreRejected : Prop :=
  ∀ s : State, s.cfg.wf = true →
    (s.runState = .noImage →
      (hostAct .reset s = .next { s with reports := s.reports ++ [.rejected (.operation .reset)] })
      ∧ (hostAct .step s = .next { s with reports := s.reports ++ [.rejected (.operation .step)] })
      ∧ (hostAct .skip s = .next { s with reports := s.reports ++ [.rejected (.operation .skip)] })
      ∧ (hostAct .run s = .next { s with reports := s.reports ++ [.rejected (.operation .run)] }))
    ∧ (s.runState = .running →
      (hostAct .reset s = .next { s with reports := s.reports ++ [.rejected (.operation .reset)] })
      ∧ (hostAct .step s = .next { s with reports := s.reports ++ [.rejected (.operation .step)] })
      ∧ (hostAct .skip s = .next { s with reports := s.reports ++ [.rejected (.operation .skip)] })
      ∧ (∀ magic file address, hostAct (.loadBin magic file address) s
          = .next { s with reports := s.reports ++ [.rejected (.operation .loadBin)] })
      ∧ (∀ edit, hostAct (.editRegister edit) s
          = .next { s with reports := s.reports ++ [.rejected (.operation .editRegister)] })
      ∧ (∀ p, hostAct (.setMode p) s
          = .next { s with reports := s.reports ++ [.rejected (.operation .setMode)] }))
    ∧ (s.runState ≠ .running →
      (∀ magic file address,
        ((parseImage magic file address).1.getLsbD 0 = true
          ∨ s.cfg.memSize < (parseImage magic file address).1.toNat + (parseImage magic file address).2.length) →
        hostAct (.loadBin magic (some file) address) s = .next { s with reports := s.reports ++ [.rejected .image] }
        ∧ (loadBin magic (some file) address s).1 = false)
      ∧ (∀ magic address,
        hostAct (.loadBin magic none address) s = .next { s with reports := s.reports ++ [.rejected .unreadableFile] }
        ∧ (loadBin magic none address s).1 = false)
      ∧ hostAct (.editRegister none) s = .next { s with reports := s.reports ++ [.rejected .registerEdit] })
    ∧ hostAct (.setBreakpoint none) s = .next { s with reports := s.reports ++ [.rejected .breakpointText] }
end

