-- ==== Sys2Proof/Laws/Memory.lean ====
section
/-! SUPPORT. Laws of the byte memory: a read after a write, the canonical form, and where bytes can lie. -/

namespace Sys2Proof.Machine

@[simp] theorem Memory.read_nil (a : Nat) : Memory.read [] a = none := rfl

theorem Memory.read_cons (c : Host.Cell) (m : Memory) (a : Nat) :
    Memory.read (c :: m) a = if c.1 = a then some c.2 else Memory.read m a := rfl

/-- In a sorted list an address below every listed one has no value. -/
theorem Memory.read_eq_none_of_lt {m : Memory} {a : Nat} (h : ∀ c ∈ m, a < c.1) : m.read a = none := by
  induction m with
  | nil => rfl
  | cons c m ih =>
    have hc : a < c.1 := h c (by simp)
    rw [Memory.read_cons, if_neg (by omega), ih (fun d hd => h d (by simp [hd]))]

/-- A write is read back. -/
@[simp] theorem Memory.read_write_same (m : Memory) (a : Nat) (v : Byte) : (m.write a v).read a = some v := by
  induction m with
  | nil => simp [Memory.write, Memory.read_cons]
  | cons c m ih =>
    unfold Memory.write
    split
    · simp [Memory.read_cons]
    · split
      · simp [Memory.read_cons]
      · rw [Memory.read_cons, if_neg (by omega), ih]

/-- A write leaves every other address alone. -/
theorem Memory.read_write_other (m : Memory) {a x : Nat} (v : Byte) (h : x ≠ a) : (m.write a v).read x = m.read x := by
  induction m with
  | nil => simp [Memory.write, Memory.read_cons, h.symm]
  | cons c m ih =>
    unfold Memory.write
    split
    · simp [Memory.read_cons, h.symm]
    · split
      · next h1 h2 => simp only [Memory.read_cons]; rw [if_neg h.symm, if_neg (by omega)]
      · simp only [Memory.read_cons, ih]

theorem Memory.read_write (m : Memory) (a x : Nat) (v : Byte) :
    (m.write a v).read x = if x = a then some v else m.read x := by
  split
  · next h => subst h; simp
  · next h => exact Memory.read_write_other m v h

/-- The listed addresses of a write are the old ones and the written one. -/
theorem Memory.mem_write {m : Memory} {a : Nat} {v : Byte} {c : Host.Cell} (h : c ∈ m.write a v) :
    c = (a, v) ∨ c ∈ m := by
  induction m with
  | nil => simpa [Memory.write] using h
  | cons d m ih =>
    unfold Memory.write at h
    split at h
    · simp only [List.mem_cons] at h ⊢; exact h
    · split at h
      · simp only [List.mem_cons] at h ⊢; rcases h with h | h
        · exact .inl h
        · exact .inr (.inr h)
      · simp only [List.mem_cons] at h ⊢
        rcases h with h | h
        · exact .inr (.inl h)
        · rcases ih h with h | h
          · exact .inl h
          · exact .inr (.inr h)

/-- A write keeps the canonical form. -/
theorem Memory.write_wf {m : Memory} (h : m.wf) (a : Nat) (v : Byte) : (m.write a v).wf := by
  induction m with
  | nil => simp [Memory.write, Memory.wf]
  | cons d m ih =>
    obtain ⟨hd, hm⟩ := List.pairwise_cons.1 h
    unfold Memory.write
    split
    · next hlt =>
      refine List.pairwise_cons.2 ⟨?_, h⟩
      intro c hc
      rcases List.mem_cons.1 hc with rfl | hc
      · exact hlt
      · exact Nat.lt_trans hlt (hd c hc)
    · split
      · next h2 => exact List.pairwise_cons.2 ⟨fun c hc => by have := hd c hc; simp only; omega, hm⟩
      · refine List.pairwise_cons.2 ⟨?_, ih hm⟩
        intro c hc
        rcases Memory.mem_write hc with rfl | hc
        · simp only; omega
        · exact hd c hc

/-- Storing consecutive bytes: inside them the byte stored, outside them the old byte. -/
theorem Memory.read_writeBytes (m : Memory) (a : Nat) (bs : List Byte) (x : Nat) :
    (m.writeBytes a bs).read x = if a ≤ x ∧ x < a + bs.length then bs[x - a]? else m.read x := by
  induction bs generalizing m a with
  | nil => simp only [Memory.writeBytes, List.length_nil, Nat.add_zero]; rw [if_neg (by omega)]
  | cons b bs ih =>
    simp only [Memory.writeBytes, ih, Memory.read_write, List.length_cons]
    by_cases h1 : x = a
    · subst h1; simp
    · by_cases h2 : a + 1 ≤ x ∧ x < a + 1 + bs.length
      · rw [if_pos h2, if_pos (by omega)]
        obtain ⟨k, rfl⟩ : ∃ k, x = a + 1 + k := ⟨x - (a + 1), by omega⟩
        rw [show a + 1 + k - (a + 1) = k by omega, show a + 1 + k - a = k + 1 by omega, List.getElem?_cons_succ]
      · rw [if_neg h2, if_neg h1, if_neg (by omega)]

theorem Memory.read_writeBytes_outside (m : Memory) {a : Nat} {bs : List Byte} {x : Nat}
    (h : x < a ∨ a + bs.length ≤ x) : (m.writeBytes a bs).read x = m.read x := by
  rw [Memory.read_writeBytes, if_neg (by omega)]

/-- A byte that has a value keeps having one when bytes are stored. -/
theorem Memory.isSome_writeBytes {m : Memory} {a : Nat} {bs : List Byte} {x : Nat} (h : (m.read x).isSome = true) :
    ((m.writeBytes a bs).read x).isSome = true := by
  rw [Memory.read_writeBytes]
  split
  · next hx => rw [List.getElem?_eq_getElem (by omega)]; rfl
  · exact h

/-- Storing bytes keeps the canonical form. -/
theorem Memory.writeBytes_wf {m : Memory} (h : m.wf) (a : Nat) (bs : List Byte) : (m.writeBytes a bs).wf := by
  induction bs generalizing m a with
  | nil => exact h
  | cons b bs ih => exact ih (Memory.write_wf h a b) (a + 1)

/-- Storing bytes below a bound keeps every listed address below it. -/
theorem Memory.writeBytes_bounded {m : Memory} {a size : Nat} {bs : List Byte} (h : ∀ c ∈ m, c.1 < size)
    (hb : a + bs.length ≤ size) : ∀ c ∈ m.writeBytes a bs, c.1 < size := by
  induction bs generalizing m a with
  | nil => exact h
  | cons b bs ih =>
    simp only [List.length_cons] at hb
    refine ih (m := m.write a b) (a := a + 1) ?_ (by omega)
    intro c hc
    rcases Memory.mem_write hc with rfl | hc
    · simp only; omega
    · exact h c hc

end Sys2Proof.Machine
end

