-- ==== Sys2Proof/Laws/State.lean ====
section
/-! SUPPORT. One lemma per field per update of the state, so that no proof unfolds a record update, and the register
accessors after each register update. -/

namespace Sys2Proof.Machine

/-! ### `State.setReg` -/

@[simp] theorem State.setReg_cfg (s : State) (k : Bool) (i : Reg) (v : Long) : (s.setReg k i v).cfg = s.cfg := by cases k <;> rfl
@[simp] theorem State.setReg_bank (s : State) (k : Bool) (i : Reg) (v : Long) : (s.setReg k i v).bank = s.bank := by cases k <;> rfl
@[simp] theorem State.setReg_pc (s : State) (k : Bool) (i : Reg) (v : Long) : (s.setReg k i v).pc = s.pc := by cases k <;> rfl
@[simp] theorem State.setReg_z (s : State) (k : Bool) (i : Reg) (v : Long) : (s.setReg k i v).z = s.z := by cases k <;> rfl
@[simp] theorem State.setReg_n (s : State) (k : Bool) (i : Reg) (v : Long) : (s.setReg k i v).n = s.n := by cases k <;> rfl
@[simp] theorem State.setReg_c (s : State) (k : Bool) (i : Reg) (v : Long) : (s.setReg k i v).c = s.c := by cases k <;> rfl
@[simp] theorem State.setReg_ds (s : State) (k : Bool) (i : Reg) (v : Long) : (s.setReg k i v).ds = s.ds := by cases k <;> rfl
@[simp] theorem State.setReg_mode (s : State) (k : Bool) (i : Reg) (v : Long) : (s.setReg k i v).mode = s.mode := by cases k <;> rfl
@[simp] theorem State.setReg_mem (s : State) (k : Bool) (i : Reg) (v : Long) : (s.setReg k i v).mem = s.mem := by cases k <;> rfl
@[simp] theorem State.setReg_runState (s : State) (k : Bool) (i : Reg) (v : Long) : (s.setReg k i v).runState = s.runState := by cases k <;> rfl
@[simp] theorem State.setReg_selfStop (s : State) (k : Bool) (i : Reg) (v : Long) : (s.setReg k i v).selfStop = s.selfStop := by cases k <;> rfl
@[simp] theorem State.setReg_stopRequested (s : State) (k : Bool) (i : Reg) (v : Long) : (s.setReg k i v).stopRequested = s.stopRequested := by cases k <;> rfl
@[simp] theorem State.setReg_loadAddress (s : State) (k : Bool) (i : Reg) (v : Long) : (s.setReg k i v).loadAddress = s.loadAddress := by cases k <;> rfl
@[simp] theorem State.setReg_programSize (s : State) (k : Bool) (i : Reg) (v : Long) : (s.setReg k i v).programSize = s.programSize := by cases k <;> rfl
@[simp] theorem State.setReg_breakpoints (s : State) (k : Bool) (i : Reg) (v : Long) : (s.setReg k i v).breakpoints = s.breakpoints := by cases k <;> rfl
@[simp] theorem State.setReg_primary (s : State) (k : Bool) (i : Reg) (v : Long) : (s.setReg k i v).primary = s.primary := by cases k <;> rfl
@[simp] theorem State.setReg_reports (s : State) (k : Bool) (i : Reg) (v : Long) : (s.setReg k i v).reports = s.reports := by cases k <;> rfl

/-! ### `State.setX` -/

@[simp] theorem State.setX_cfg (s : State) (i : Reg) (v : Long) : (s.setX i v).cfg = s.cfg := by unfold State.setX; simp
@[simp] theorem State.setX_bank (s : State) (i : Reg) (v : Long) : (s.setX i v).bank = s.bank := by unfold State.setX; simp
@[simp] theorem State.setX_pc (s : State) (i : Reg) (v : Long) : (s.setX i v).pc = s.pc := by unfold State.setX; simp
@[simp] theorem State.setX_z (s : State) (i : Reg) (v : Long) : (s.setX i v).z = s.z := by unfold State.setX; simp
@[simp] theorem State.setX_n (s : State) (i : Reg) (v : Long) : (s.setX i v).n = s.n := by unfold State.setX; simp
@[simp] theorem State.setX_c (s : State) (i : Reg) (v : Long) : (s.setX i v).c = s.c := by unfold State.setX; simp
@[simp] theorem State.setX_ds (s : State) (i : Reg) (v : Long) : (s.setX i v).ds = s.ds := by unfold State.setX; simp
@[simp] theorem State.setX_mode (s : State) (i : Reg) (v : Long) : (s.setX i v).mode = s.mode := by unfold State.setX; simp
@[simp] theorem State.setX_mem (s : State) (i : Reg) (v : Long) : (s.setX i v).mem = s.mem := by unfold State.setX; simp
@[simp] theorem State.setX_runState (s : State) (i : Reg) (v : Long) : (s.setX i v).runState = s.runState := by unfold State.setX; simp
@[simp] theorem State.setX_selfStop (s : State) (i : Reg) (v : Long) : (s.setX i v).selfStop = s.selfStop := by unfold State.setX; simp
@[simp] theorem State.setX_stopRequested (s : State) (i : Reg) (v : Long) : (s.setX i v).stopRequested = s.stopRequested := by unfold State.setX; simp
@[simp] theorem State.setX_loadAddress (s : State) (i : Reg) (v : Long) : (s.setX i v).loadAddress = s.loadAddress := by unfold State.setX; simp
@[simp] theorem State.setX_programSize (s : State) (i : Reg) (v : Long) : (s.setX i v).programSize = s.programSize := by unfold State.setX; simp
@[simp] theorem State.setX_breakpoints (s : State) (i : Reg) (v : Long) : (s.setX i v).breakpoints = s.breakpoints := by unfold State.setX; simp
@[simp] theorem State.setX_primary (s : State) (i : Reg) (v : Long) : (s.setX i v).primary = s.primary := by unfold State.setX; simp
@[simp] theorem State.setX_reports (s : State) (i : Reg) (v : Long) : (s.setX i v).reports = s.reports := by unfold State.setX; simp

/-! ### `State.setXo` -/

@[simp] theorem State.setXo_cfg (s : State) (i : Reg) (v : Long) : (s.setXo i v).cfg = s.cfg := by unfold State.setXo; simp
@[simp] theorem State.setXo_bank (s : State) (i : Reg) (v : Long) : (s.setXo i v).bank = s.bank := by unfold State.setXo; simp
@[simp] theorem State.setXo_pc (s : State) (i : Reg) (v : Long) : (s.setXo i v).pc = s.pc := by unfold State.setXo; simp
@[simp] theorem State.setXo_z (s : State) (i : Reg) (v : Long) : (s.setXo i v).z = s.z := by unfold State.setXo; simp
@[simp] theorem State.setXo_n (s : State) (i : Reg) (v : Long) : (s.setXo i v).n = s.n := by unfold State.setXo; simp
@[simp] theorem State.setXo_c (s : State) (i : Reg) (v : Long) : (s.setXo i v).c = s.c := by unfold State.setXo; simp
@[simp] theorem State.setXo_ds (s : State) (i : Reg) (v : Long) : (s.setXo i v).ds = s.ds := by unfold State.setXo; simp
@[simp] theorem State.setXo_mode (s : State) (i : Reg) (v : Long) : (s.setXo i v).mode = s.mode := by unfold State.setXo; simp
@[simp] theorem State.setXo_mem (s : State) (i : Reg) (v : Long) : (s.setXo i v).mem = s.mem := by unfold State.setXo; simp
@[simp] theorem State.setXo_runState (s : State) (i : Reg) (v : Long) : (s.setXo i v).runState = s.runState := by unfold State.setXo; simp
@[simp] theorem State.setXo_selfStop (s : State) (i : Reg) (v : Long) : (s.setXo i v).selfStop = s.selfStop := by unfold State.setXo; simp
@[simp] theorem State.setXo_stopRequested (s : State) (i : Reg) (v : Long) : (s.setXo i v).stopRequested = s.stopRequested := by unfold State.setXo; simp
@[simp] theorem State.setXo_loadAddress (s : State) (i : Reg) (v : Long) : (s.setXo i v).loadAddress = s.loadAddress := by unfold State.setXo; simp
@[simp] theorem State.setXo_programSize (s : State) (i : Reg) (v : Long) : (s.setXo i v).programSize = s.programSize := by unfold State.setXo; simp
@[simp] theorem State.setXo_breakpoints (s : State) (i : Reg) (v : Long) : (s.setXo i v).breakpoints = s.breakpoints := by unfold State.setXo; simp
@[simp] theorem State.setXo_primary (s : State) (i : Reg) (v : Long) : (s.setXo i v).primary = s.primary := by unfold State.setXo; simp
@[simp] theorem State.setXo_reports (s : State) (i : Reg) (v : Long) : (s.setXo i v).reports = s.reports := by unfold State.setXo; simp

/-! ### `State.setZN` -/

@[simp] theorem State.setZN_cfg (s : State) (v : Long) : (s.setZN v).cfg = s.cfg := rfl
@[simp] theorem State.setZN_regs0 (s : State) (v : Long) : (s.setZN v).regs0 = s.regs0 := rfl
@[simp] theorem State.setZN_regs1 (s : State) (v : Long) : (s.setZN v).regs1 = s.regs1 := rfl
@[simp] theorem State.setZN_bank (s : State) (v : Long) : (s.setZN v).bank = s.bank := rfl
@[simp] theorem State.setZN_pc (s : State) (v : Long) : (s.setZN v).pc = s.pc := rfl
@[simp] theorem State.setZN_z (s : State) (v : Long) : (s.setZN v).z = (v == 0) := rfl
@[simp] theorem State.setZN_n (s : State) (v : Long) : (s.setZN v).n = v.getLsbD 31 := rfl
@[simp] theorem State.setZN_c (s : State) (v : Long) : (s.setZN v).c = s.c := rfl
@[simp] theorem State.setZN_ds (s : State) (v : Long) : (s.setZN v).ds = s.ds := rfl
@[simp] theorem State.setZN_mode (s : State) (v : Long) : (s.setZN v).mode = s.mode := rfl
@[simp] theorem State.setZN_mem (s : State) (v : Long) : (s.setZN v).mem = s.mem := rfl
@[simp] theorem State.setZN_runState (s : State) (v : Long) : (s.setZN v).runState = s.runState := rfl
@[simp] theorem State.setZN_selfStop (s : State) (v : Long) : (s.setZN v).selfStop = s.selfStop := rfl
@[simp] theorem State.setZN_stopRequested (s : State) (v : Long) : (s.setZN v).stopRequested = s.stopRequested := rfl
@[simp] theorem State.setZN_loadAddress (s : State) (v : Long) : (s.setZN v).loadAddress = s.loadAddress := rfl
@[simp] theorem State.setZN_programSize (s : State) (v : Long) : (s.setZN v).programSize = s.programSize := rfl
@[simp] theorem State.setZN_breakpoints (s : State) (v : Long) : (s.setZN v).breakpoints = s.breakpoints := rfl
@[simp] theorem State.setZN_primary (s : State) (v : Long) : (s.setZN v).primary = s.primary := rfl
@[simp] theorem State.setZN_reports (s : State) (v : Long) : (s.setZN v).reports = s.reports := rfl

/-! ### `State.setC` -/

@[simp] theorem State.setC_cfg (s : State) (b : Bool) : (s.setC b).cfg = s.cfg := rfl
@[simp] theorem State.setC_regs0 (s : State) (b : Bool) : (s.setC b).regs0 = s.regs0 := rfl
@[simp] theorem State.setC_regs1 (s : State) (b : Bool) : (s.setC b).regs1 = s.regs1 := rfl
@[simp] theorem State.setC_bank (s : State) (b : Bool) : (s.setC b).bank = s.bank := rfl
@[simp] theorem State.setC_pc (s : State) (b : Bool) : (s.setC b).pc = s.pc := rfl
@[simp] theorem State.setC_z (s : State) (b : Bool) : (s.setC b).z = s.z := rfl
@[simp] theorem State.setC_n (s : State) (b : Bool) : (s.setC b).n = s.n := rfl
@[simp] theorem State.setC_c (s : State) (b : Bool) : (s.setC b).c = b := rfl
@[simp] theorem State.setC_ds (s : State) (b : Bool) : (s.setC b).ds = s.ds := rfl
@[simp] theorem State.setC_mode (s : State) (b : Bool) : (s.setC b).mode = s.mode := rfl
@[simp] theorem State.setC_mem (s : State) (b : Bool) : (s.setC b).mem = s.mem := rfl
@[simp] theorem State.setC_runState (s : State) (b : Bool) : (s.setC b).runState = s.runState := rfl
@[simp] theorem State.setC_selfStop (s : State) (b : Bool) : (s.setC b).selfStop = s.selfStop := rfl
@[simp] theorem State.setC_stopRequested (s : State) (b : Bool) : (s.setC b).stopRequested = s.stopRequested := rfl
@[simp] theorem State.setC_loadAddress (s : State) (b : Bool) : (s.setC b).loadAddress = s.loadAddress := rfl
@[simp] theorem State.setC_programSize (s : State) (b : Bool) : (s.setC b).programSize = s.programSize := rfl
@[simp] theorem State.setC_breakpoints (s : State) (b : Bool) : (s.setC b).breakpoints = s.breakpoints := rfl
@[simp] theorem State.setC_primary (s : State) (b : Bool) : (s.setC b).primary = s.primary := rfl
@[simp] theorem State.setC_reports (s : State) (b : Bool) : (s.setC b).reports = s.reports := rfl

/-! ### `State.report` -/

@[simp] theorem State.report_cfg (s : State) (r : Report) : (s.report r).cfg = s.cfg := rfl
@[simp] theorem State.report_regs0 (s : State) (r : Report) : (s.report r).regs0 = s.regs0 := rfl
@[simp] theorem State.report_regs1 (s : State) (r : Report) : (s.report r).regs1 = s.regs1 := rfl
@[simp] theorem State.report_bank (s : State) (r : Report) : (s.report r).bank = s.bank := rfl
@[simp] theorem State.report_pc (s : State) (r : Report) : (s.report r).pc = s.pc := rfl
@[simp] theorem State.report_z (s : State) (r : Report) : (s.report r).z = s.z := rfl
@[simp] theorem State.report_n (s : State) (r : Report) : (s.report r).n = s.n := rfl
@[simp] theorem State.report_c (s : State) (r : Report) : (s.report r).c = s.c := rfl
@[simp] theorem State.report_ds (s : State) (r : Report) : (s.report r).ds = s.ds := rfl
@[simp] theorem State.report_mode (s : State) (r : Report) : (s.report r).mode = s.mode := rfl
@[simp] theorem State.report_mem (s : State) (r : Report) : (s.report r).mem = s.mem := rfl
@[simp] theorem State.report_runState (s : State) (r : Report) : (s.report r).runState = s.runState := rfl
@[simp] theorem State.report_selfStop (s : State) (r : Report) : (s.report r).selfStop = s.selfStop := rfl
@[simp] theorem State.report_stopRequested (s : State) (r : Report) : (s.report r).stopRequested = s.stopRequested := rfl
@[simp] theorem State.report_loadAddress (s : State) (r : Report) : (s.report r).loadAddress = s.loadAddress := rfl
@[simp] theorem State.report_programSize (s : State) (r : Report) : (s.report r).programSize = s.programSize := rfl
@[simp] theorem State.report_breakpoints (s : State) (r : Report) : (s.report r).breakpoints = s.breakpoints := rfl
@[simp] theorem State.report_primary (s : State) (r : Report) : (s.report r).primary = s.primary := rfl
@[simp] theorem State.report_reports (s : State) (r : Report) : (s.report r).reports = s.reports ++ [r] := rfl

/-! ### `State.putBytes` -/

@[simp] theorem State.putBytes_cfg (s : State) (a : Nat) (bs : List Byte) : (s.putBytes a bs).cfg = s.cfg := rfl
@[simp] theorem State.putBytes_regs0 (s : State) (a : Nat) (bs : List Byte) : (s.putBytes a bs).regs0 = s.regs0 := rfl
@[simp] theorem State.putBytes_regs1 (s : State) (a : Nat) (bs : List Byte) : (s.putBytes a bs).regs1 = s.regs1 := rfl
@[simp] theorem State.putBytes_bank (s : State) (a : Nat) (bs : List Byte) : (s.putBytes a bs).bank = s.bank := rfl
@[simp] theorem State.putBytes_pc (s : State) (a : Nat) (bs : List Byte) : (s.putBytes a bs).pc = s.pc := rfl
@[simp] theorem State.putBytes_z (s : State) (a : Nat) (bs : List Byte) : (s.putBytes a bs).z = s.z := rfl
@[simp] theorem State.putBytes_n (s : State) (a : Nat) (bs : List Byte) : (s.putBytes a bs).n = s.n := rfl
@[simp] theorem State.putBytes_c (s : State) (a : Nat) (bs : List Byte) : (s.putBytes a bs).c = s.c := rfl
@[simp] theorem State.putBytes_ds (s : State) (a : Nat) (bs : List Byte) : (s.putBytes a bs).ds = s.ds := rfl
@[simp] theorem State.putBytes_mode (s : State) (a : Nat) (bs : List Byte) : (s.putBytes a bs).mode = s.mode := rfl
@[simp] theorem State.putBytes_mem (s : State) (a : Nat) (bs : List Byte) : (s.putBytes a bs).mem = s.mem.writeBytes a bs := rfl
@[simp] theorem State.putBytes_runState (s : State) (a : Nat) (bs : List Byte) : (s.putBytes a bs).runState = s.runState := rfl
@[simp] theorem State.putBytes_selfStop (s : State) (a : Nat) (bs : List Byte) : (s.putBytes a bs).selfStop = s.selfStop := rfl
@[simp] theorem State.putBytes_stopRequested (s : State) (a : Nat) (bs : List Byte) : (s.putBytes a bs).stopRequested = s.stopRequested := rfl
@[simp] theorem State.putBytes_loadAddress (s : State) (a : Nat) (bs : List Byte) : (s.putBytes a bs).loadAddress = s.loadAddress := rfl
@[simp] theorem State.putBytes_programSize (s : State) (a : Nat) (bs : List Byte) : (s.putBytes a bs).programSize = s.programSize := rfl
@[simp] theorem State.putBytes_breakpoints (s : State) (a : Nat) (bs : List Byte) : (s.putBytes a bs).breakpoints = s.breakpoints := rfl
@[simp] theorem State.putBytes_primary (s : State) (a : Nat) (bs : List Byte) : (s.putBytes a bs).primary = s.primary := rfl
@[simp] theorem State.putBytes_reports (s : State) (a : Nat) (bs : List Byte) : (s.putBytes a bs).reports = s.reports := rfl

/-! ### `State.setDelaySlot` -/

@[simp] theorem State.setDelaySlot_cfg (s : State) (v : Long) : (s.setDelaySlot v).cfg = s.cfg := rfl
@[simp] theorem State.setDelaySlot_regs0 (s : State) (v : Long) : (s.setDelaySlot v).regs0 = s.regs0 := rfl
@[simp] theorem State.setDelaySlot_regs1 (s : State) (v : Long) : (s.setDelaySlot v).regs1 = s.regs1 := rfl
@[simp] theorem State.setDelaySlot_bank (s : State) (v : Long) : (s.setDelaySlot v).bank = s.bank := rfl
@[simp] theorem State.setDelaySlot_pc (s : State) (v : Long) : (s.setDelaySlot v).pc = s.pc := rfl
@[simp] theorem State.setDelaySlot_z (s : State) (v : Long) : (s.setDelaySlot v).z = s.z := rfl
@[simp] theorem State.setDelaySlot_n (s : State) (v : Long) : (s.setDelaySlot v).n = s.n := rfl
@[simp] theorem State.setDelaySlot_c (s : State) (v : Long) : (s.setDelaySlot v).c = s.c := rfl
@[simp] theorem State.setDelaySlot_ds (s : State) (v : Long) : (s.setDelaySlot v).ds = { target := v, pending := true } := rfl
@[simp] theorem State.setDelaySlot_mode (s : State) (v : Long) : (s.setDelaySlot v).mode = s.mode := rfl
@[simp] theorem State.setDelaySlot_mem (s : State) (v : Long) : (s.setDelaySlot v).mem = s.mem := rfl
@[simp] theorem State.setDelaySlot_runState (s : State) (v : Long) : (s.setDelaySlot v).runState = s.runState := rfl
@[simp] theorem State.setDelaySlot_selfStop (s : State) (v : Long) : (s.setDelaySlot v).selfStop = s.selfStop := rfl
@[simp] theorem State.setDelaySlot_stopRequested (s : State) (v : Long) : (s.setDelaySlot v).stopRequested = s.stopRequested := rfl
@[simp] theorem State.setDelaySlot_loadAddress (s : State) (v : Long) : (s.setDelaySlot v).loadAddress = s.loadAddress := rfl
@[simp] theorem State.setDelaySlot_programSize (s : State) (v : Long) : (s.setDelaySlot v).programSize = s.programSize := rfl
@[simp] theorem State.setDelaySlot_breakpoints (s : State) (v : Long) : (s.setDelaySlot v).breakpoints = s.breakpoints := rfl
@[simp] theorem State.setDelaySlot_primary (s : State) (v : Long) : (s.setDelaySlot v).primary = s.primary := rfl
@[simp] theorem State.setDelaySlot_reports (s : State) (v : Long) : (s.setDelaySlot v).reports = s.reports := rfl

/-! ### `State.advance` -/

@[simp] theorem State.advance_cfg (s : State) (n : Nat) : (s.advance n).cfg = s.cfg := rfl
@[simp] theorem State.advance_regs0 (s : State) (n : Nat) : (s.advance n).regs0 = s.regs0 := rfl
@[simp] theorem State.advance_regs1 (s : State) (n : Nat) : (s.advance n).regs1 = s.regs1 := rfl
@[simp] theorem State.advance_bank (s : State) (n : Nat) : (s.advance n).bank = s.bank := rfl
@[simp] theorem State.advance_pc (s : State) (n : Nat) : (s.advance n).pc = s.pc + BitVec.ofNat 32 n := rfl
@[simp] theorem State.advance_z (s : State) (n : Nat) : (s.advance n).z = s.z := rfl
@[simp] theorem State.advance_n (s : State) (n : Nat) : (s.advance n).n = s.n := rfl
@[simp] theorem State.advance_c (s : State) (n : Nat) : (s.advance n).c = s.c := rfl
@[simp] theorem State.advance_ds (s : State) (n : Nat) : (s.advance n).ds = s.ds := rfl
@[simp] theorem State.advance_mode (s : State) (n : Nat) : (s.advance n).mode = s.mode := rfl
@[simp] theorem State.advance_mem (s : State) (n : Nat) : (s.advance n).mem = s.mem := rfl
@[simp] theorem State.advance_runState (s : State) (n : Nat) : (s.advance n).runState = s.runState := rfl
@[simp] theorem State.advance_selfStop (s : State) (n : Nat) : (s.advance n).selfStop = s.selfStop := rfl
@[simp] theorem State.advance_stopRequested (s : State) (n : Nat) : (s.advance n).stopRequested = s.stopRequested := rfl
@[simp] theorem State.advance_loadAddress (s : State) (n : Nat) : (s.advance n).loadAddress = s.loadAddress := rfl
@[simp] theorem State.advance_programSize (s : State) (n : Nat) : (s.advance n).programSize = s.programSize := rfl
@[simp] theorem State.advance_breakpoints (s : State) (n : Nat) : (s.advance n).breakpoints = s.breakpoints := rfl
@[simp] theorem State.advance_primary (s : State) (n : Nat) : (s.advance n).primary = s.primary := rfl
@[simp] theorem State.advance_reports (s : State) (n : Nat) : (s.advance n).reports = s.reports := rfl

/-! ### `State.resetCore` -/

@[simp] theorem State.resetCore_cfg (s : State) : (s.resetCore).cfg = s.cfg := rfl
@[simp] theorem State.resetCore_regs0 (s : State) : (s.resetCore).regs0 = Vector.replicate 32 0 := rfl
@[simp] theorem State.resetCore_regs1 (s : State) : (s.resetCore).regs1 = Vector.replicate 32 0 := rfl
@[simp] theorem State.resetCore_bank (s : State) : (s.resetCore).bank = s.bank := rfl
@[simp] theorem State.resetCore_pc (s : State) : (s.resetCore).pc = s.loadAddress := rfl
@[simp] theorem State.resetCore_z (s : State) : (s.resetCore).z = false := rfl
@[simp] theorem State.resetCore_n (s : State) : (s.resetCore).n = false := rfl
@[simp] theorem State.resetCore_c (s : State) : (s.resetCore).c = false := rfl
@[simp] theorem State.resetCore_ds (s : State) : (s.resetCore).ds = { target := 0, pending := false } := rfl
@[simp] theorem State.resetCore_mode (s : State) : (s.resetCore).mode = s.mode := rfl
@[simp] theorem State.resetCore_mem (s : State) : (s.resetCore).mem = s.mem := rfl
@[simp] theorem State.resetCore_runState (s : State) : (s.resetCore).runState = .idle := rfl
@[simp] theorem State.resetCore_selfStop (s : State) : (s.resetCore).selfStop = false := rfl
@[simp] theorem State.resetCore_stopRequested (s : State) : (s.resetCore).stopRequested = false := rfl
@[simp] theorem State.resetCore_loadAddress (s : State) : (s.resetCore).loadAddress = s.loadAddress := rfl
@[simp] theorem State.resetCore_programSize (s : State) : (s.resetCore).programSize = s.programSize := rfl
@[simp] theorem State.resetCore_breakpoints (s : State) : (s.resetCore).breakpoints = s.breakpoints := rfl
@[simp] theorem State.resetCore_primary (s : State) : (s.resetCore).primary = s.primary := rfl
@[simp] theorem State.resetCore_reports (s : State) : (s.resetCore).reports = s.reports := rfl

/-! ### `State.stopRunFor` -/

@[simp] theorem State.stopRunFor_cfg (s : State) (r : StopReason) : (s.stopRunFor r).cfg = s.cfg := rfl
@[simp] theorem State.stopRunFor_regs0 (s : State) (r : StopReason) : (s.stopRunFor r).regs0 = s.regs0 := rfl
@[simp] theorem State.stopRunFor_regs1 (s : State) (r : StopReason) : (s.stopRunFor r).regs1 = s.regs1 := rfl
@[simp] theorem State.stopRunFor_bank (s : State) (r : StopReason) : (s.stopRunFor r).bank = s.bank := rfl
@[simp] theorem State.stopRunFor_pc (s : State) (r : StopReason) : (s.stopRunFor r).pc = s.pc := rfl
@[simp] theorem State.stopRunFor_z (s : State) (r : StopReason) : (s.stopRunFor r).z = s.z := rfl
@[simp] theorem State.stopRunFor_n (s : State) (r : StopReason) : (s.stopRunFor r).n = s.n := rfl
@[simp] theorem State.stopRunFor_c (s : State) (r : StopReason) : (s.stopRunFor r).c = s.c := rfl
@[simp] theorem State.stopRunFor_ds (s : State) (r : StopReason) : (s.stopRunFor r).ds = s.ds := rfl
@[simp] theorem State.stopRunFor_mode (s : State) (r : StopReason) : (s.stopRunFor r).mode = s.mode := rfl
@[simp] theorem State.stopRunFor_mem (s : State) (r : StopReason) : (s.stopRunFor r).mem = s.mem := rfl
@[simp] theorem State.stopRunFor_runState (s : State) (r : StopReason) : (s.stopRunFor r).runState = .idle := rfl
@[simp] theorem State.stopRunFor_selfStop (s : State) (r : StopReason) : (s.stopRunFor r).selfStop = false := rfl
@[simp] theorem State.stopRunFor_stopRequested (s : State) (r : StopReason) : (s.stopRunFor r).stopRequested = false := rfl
@[simp] theorem State.stopRunFor_loadAddress (s : State) (r : StopReason) : (s.stopRunFor r).loadAddress = s.loadAddress := rfl
@[simp] theorem State.stopRunFor_programSize (s : State) (r : StopReason) : (s.stopRunFor r).programSize = s.programSize := rfl
@[simp] theorem State.stopRunFor_breakpoints (s : State) (r : StopReason) : (s.stopRunFor r).breakpoints = s.breakpoints := rfl
@[simp] theorem State.stopRunFor_primary (s : State) (r : StopReason) : (s.stopRunFor r).primary = s.primary := rfl
@[simp] theorem State.stopRunFor_reports (s : State) (r : StopReason) : (s.stopRunFor r).reports = s.reports ++ [.stopped r] := rfl

/-! ### `State.reject` -/

@[simp] theorem State.reject_cfg (s : State) (r : Rejection) : (s.reject r).cfg = s.cfg := rfl
@[simp] theorem State.reject_regs0 (s : State) (r : Rejection) : (s.reject r).regs0 = s.regs0 := rfl
@[simp] theorem State.reject_regs1 (s : State) (r : Rejection) : (s.reject r).regs1 = s.regs1 := rfl
@[simp] theorem State.reject_bank (s : State) (r : Rejection) : (s.reject r).bank = s.bank := rfl
@[simp] theorem State.reject_pc (s : State) (r : Rejection) : (s.reject r).pc = s.pc := rfl
@[simp] theorem State.reject_z (s : State) (r : Rejection) : (s.reject r).z = s.z := rfl
@[simp] theorem State.reject_n (s : State) (r : Rejection) : (s.reject r).n = s.n := rfl
@[simp] theorem State.reject_c (s : State) (r : Rejection) : (s.reject r).c = s.c := rfl
@[simp] theorem State.reject_ds (s : State) (r : Rejection) : (s.reject r).ds = s.ds := rfl
@[simp] theorem State.reject_mode (s : State) (r : Rejection) : (s.reject r).mode = s.mode := rfl
@[simp] theorem State.reject_mem (s : State) (r : Rejection) : (s.reject r).mem = s.mem := rfl
@[simp] theorem State.reject_runState (s : State) (r : Rejection) : (s.reject r).runState = s.runState := rfl
@[simp] theorem State.reject_selfStop (s : State) (r : Rejection) : (s.reject r).selfStop = s.selfStop := rfl
@[simp] theorem State.reject_stopRequested (s : State) (r : Rejection) : (s.reject r).stopRequested = s.stopRequested := rfl
@[simp] theorem State.reject_loadAddress (s : State) (r : Rejection) : (s.reject r).loadAddress = s.loadAddress := rfl
@[simp] theorem State.reject_programSize (s : State) (r : Rejection) : (s.reject r).programSize = s.programSize := rfl
@[simp] theorem State.reject_breakpoints (s : State) (r : Rejection) : (s.reject r).breakpoints = s.breakpoints := rfl
@[simp] theorem State.reject_primary (s : State) (r : Rejection) : (s.reject r).primary = s.primary := rfl
@[simp] theorem State.reject_reports (s : State) (r : Rejection) : (s.reject r).reports = s.reports ++ [.rejected r] := rfl

/-! ### `State.noteAlignment` -/

@[simp] theorem State.noteAlignment_cfg (s : State) (w : Width) (a : Long) : (s.noteAlignment w a).cfg = s.cfg := by unfold State.noteAlignment; split <;> rfl
@[simp] theorem State.noteAlignment_regs0 (s : State) (w : Width) (a : Long) : (s.noteAlignment w a).regs0 = s.regs0 := by unfold State.noteAlignment; split <;> rfl
@[simp] theorem State.noteAlignment_regs1 (s : State) (w : Width) (a : Long) : (s.noteAlignment w a).regs1 = s.regs1 := by unfold State.noteAlignment; split <;> rfl
@[simp] theorem State.noteAlignment_bank (s : State) (w : Width) (a : Long) : (s.noteAlignment w a).bank = s.bank := by unfold State.noteAlignment; split <;> rfl
@[simp] theorem State.noteAlignment_pc (s : State) (w : Width) (a : Long) : (s.noteAlignment w a).pc = s.pc := by unfold State.noteAlignment; split <;> rfl
@[simp] theorem State.noteAlignment_z (s : State) (w : Width) (a : Long) : (s.noteAlignment w a).z = s.z := by unfold State.noteAlignment; split <;> rfl
@[simp] theorem State.noteAlignment_n (s : State) (w : Width) (a : Long) : (s.noteAlignment w a).n = s.n := by unfold State.noteAlignment; split <;> rfl
@[simp] theorem State.noteAlignment_c (s : State) (w : Width) (a : Long) : (s.noteAlignment w a).c = s.c := by unfold State.noteAlignment; split <;> rfl
@[simp] theorem State.noteAlignment_ds (s : State) (w : Width) (a : Long) : (s.noteAlignment w a).ds = s.ds := by unfold State.noteAlignment; split <;> rfl
@[simp] theorem State.noteAlignment_mode (s : State) (w : Width) (a : Long) : (s.noteAlignment w a).mode = s.mode := by unfold State.noteAlignment; split <;> rfl
@[simp] theorem State.noteAlignment_mem (s : State) (w : Width) (a : Long) : (s.noteAlignment w a).mem = s.mem := by unfold State.noteAlignment; split <;> rfl
@[simp] theorem State.noteAlignment_runState (s : State) (w : Width) (a : Long) : (s.noteAlignment w a).runState = s.runState := by unfold State.noteAlignment; split <;> rfl
@[simp] theorem State.noteAlignment_selfStop (s : State) (w : Width) (a : Long) : (s.noteAlignment w a).selfStop = s.selfStop := by unfold State.noteAlignment; split <;> rfl
@[simp] theorem State.noteAlignment_stopRequested (s : State) (w : Width) (a : Long) : (s.noteAlignment w a).stopRequested = s.stopRequested := by unfold State.noteAlignment; split <;> rfl
@[simp] theorem State.noteAlignment_loadAddress (s : State) (w : Width) (a : Long) : (s.noteAlignment w a).loadAddress = s.loadAddress := by unfold State.noteAlignment; split <;> rfl
@[simp] theorem State.noteAlignment_programSize (s : State) (w : Width) (a : Long) : (s.noteAlignment w a).programSize = s.programSize := by unfold State.noteAlignment; split <;> rfl
@[simp] theorem State.noteAlignment_breakpoints (s : State) (w : Width) (a : Long) : (s.noteAlignment w a).breakpoints = s.breakpoints := by unfold State.noteAlignment; split <;> rfl
@[simp] theorem State.noteAlignment_primary (s : State) (w : Width) (a : Long) : (s.noteAlignment w a).primary = s.primary := by unfold State.noteAlignment; split <;> rfl

/-! ### `State.noteRestricted` -/

@[simp] theorem State.noteRestricted_cfg (s : State) (w : Width) (a : Long) : (s.noteRestricted w a).cfg = s.cfg := by unfold State.noteRestricted; split <;> rfl
@[simp] theorem State.noteRestricted_regs0 (s : State) (w : Width) (a : Long) : (s.noteRestricted w a).regs0 = s.regs0 := by unfold State.noteRestricted; split <;> rfl
@[simp] theorem State.noteRestricted_regs1 (s : State) (w : Width) (a : Long) : (s.noteRestricted w a).regs1 = s.regs1 := by unfold State.noteRestricted; split <;> rfl
@[simp] theorem State.noteRestricted_bank (s : State) (w : Width) (a : Long) : (s.noteRestricted w a).bank = s.bank := by unfold State.noteRestricted; split <;> rfl
@[simp] theorem State.noteRestricted_pc (s : State) (w : Width) (a : Long) : (s.noteRestricted w a).pc = s.pc := by unfold State.noteRestricted; split <;> rfl
@[simp] theorem State.noteRestricted_z (s : State) (w : Width) (a : Long) : (s.noteRestricted w a).z = s.z := by unfold State.noteRestricted; split <;> rfl
@[simp] theorem State.noteRestricted_n (s : State) (w : Width) (a : Long) : (s.noteRestricted w a).n = s.n := by unfold State.noteRestricted; split <;> rfl
@[simp] theorem State.noteRestricted_c (s : State) (w : Width) (a : Long) : (s.noteRestricted w a).c = s.c := by unfold State.noteRestricted; split <;> rfl
@[simp] theorem State.noteRestricted_ds (s : State) (w : Width) (a : Long) : (s.noteRestricted w a).ds = s.ds := by unfold State.noteRestricted; split <;> rfl
@[simp] theorem State.noteRestricted_mode (s : State) (w : Width) (a : Long) : (s.noteRestricted w a).mode = s.mode := by unfold State.noteRestricted; split <;> rfl
@[simp] theorem State.noteRestricted_mem (s : State) (w : Width) (a : Long) : (s.noteRestricted w a).mem = s.mem := by unfold State.noteRestricted; split <;> rfl
@[simp] theorem State.noteRestricted_runState (s : State) (w : Width) (a : Long) : (s.noteRestricted w a).runState = s.runState := by unfold State.noteRestricted; split <;> rfl
@[simp] theorem State.noteRestricted_selfStop (s : State) (w : Width) (a : Long) : (s.noteRestricted w a).selfStop = s.selfStop := by unfold State.noteRestricted; split <;> rfl
@[simp] theorem State.noteRestricted_stopRequested (s : State) (w : Width) (a : Long) : (s.noteRestricted w a).stopRequested = s.stopRequested := by unfold State.noteRestricted; split <;> rfl
@[simp] theorem State.noteRestricted_loadAddress (s : State) (w : Width) (a : Long) : (s.noteRestricted w a).loadAddress = s.loadAddress := by unfold State.noteRestricted; split <;> rfl
@[simp] theorem State.noteRestricted_programSize (s : State) (w : Width) (a : Long) : (s.noteRestricted w a).programSize = s.programSize := by unfold State.noteRestricted; split <;> rfl
@[simp] theorem State.noteRestricted_breakpoints (s : State) (w : Width) (a : Long) : (s.noteRestricted w a).breakpoints = s.breakpoints := by unfold State.noteRestricted; split <;> rfl
@[simp] theorem State.noteRestricted_primary (s : State) (w : Width) (a : Long) : (s.noteRestricted w a).primary = s.primary := by unfold State.noteRestricted; split <;> rfl

/-! ### Registers after updates -/

@[simp] theorem State.reg_setReg (s : State) (k k' : Bool) (i i' : Reg) (v : Long) :
    (s.setReg k i v).reg k' i' = if k' = k ∧ i' = i then v else s.reg k' i' := by
  have hi : ∀ x y : Reg, (x.toNat = y.toNat) = (y = x) := fun x y => by
    rw [← BitVec.toNat_inj]; exact propext eq_comm
  cases k <;> cases k' <;> simp [State.setReg, State.reg, Vector.getElem_set, hi]

theorem State.reg_setReg_same (s : State) (k : Bool) (i : Reg) (v : Long) : (s.setReg k i v).reg k i = v := by simp

theorem State.reg_setReg_other (s : State) {k k' : Bool} {i i' : Reg} (v : Long) (h : k' ≠ k ∨ i' ≠ i) :
    (s.setReg k i v).reg k' i' = s.reg k' i' := by
  rw [State.reg_setReg, if_neg]
  rintro ⟨rfl, rfl⟩
  simp at h

@[simp] theorem State.reg_setX (s : State) (k : Bool) (i i' : Reg) (v : Long) :
    (s.setX i v).reg k i' = if k = s.bank ∧ i' = i then v else s.reg k i' := by simp [State.setX]

@[simp] theorem State.reg_setXo (s : State) (k : Bool) (i i' : Reg) (v : Long) :
    (s.setXo i v).reg k i' = if k = (!s.bank) ∧ i' = i then v else s.reg k i' := by simp [State.setXo]

@[simp] theorem State.reg_setZN (s : State) (v : Long) (k : Bool) (i : Reg) : (s.setZN v).reg k i = s.reg k i := by
  cases k <;> rfl
@[simp] theorem State.reg_setC (s : State) (b : Bool) (k : Bool) (i : Reg) : (s.setC b).reg k i = s.reg k i := by
  cases k <;> rfl
@[simp] theorem State.reg_report (s : State) (r : Report) (k : Bool) (i : Reg) : (s.report r).reg k i = s.reg k i := by
  cases k <;> rfl
@[simp] theorem State.reg_putBytes (s : State) (a : Nat) (bs : List Byte) (k : Bool) (i : Reg) :
    (s.putBytes a bs).reg k i = s.reg k i := by
  cases k <;> rfl
@[simp] theorem State.reg_setDelaySlot (s : State) (v : Long) (k : Bool) (i : Reg) :
    (s.setDelaySlot v).reg k i = s.reg k i := by
  cases k <;> rfl
@[simp] theorem State.reg_advance (s : State) (n : Nat) (k : Bool) (i : Reg) : (s.advance n).reg k i = s.reg k i := by
  cases k <;> rfl
@[simp] theorem State.reg_resetCore (s : State) (k : Bool) (i : Reg) : s.resetCore.reg k i = 0 := by
  cases k <;> simp [State.reg]
@[simp] theorem State.reg_noteAlignment (s : State) (w : Width) (a : Long) (k : Bool) (i : Reg) :
    (s.noteAlignment w a).reg k i = s.reg k i := by
  unfold State.noteAlignment; split <;> simp
@[simp] theorem State.reg_noteRestricted (s : State) (w : Width) (a : Long) (k : Bool) (i : Reg) :
    (s.noteRestricted w a).reg k i = s.reg k i := by
  unfold State.noteRestricted; split <;> simp

@[simp] theorem State.powerOn_mem (cfg : Config) : (State.powerOn cfg).mem = powerOnMemory cfg := by
  simp only [State.powerOn]
@[simp] theorem State.powerOn_cfg (cfg : Config) : (State.powerOn cfg).cfg = cfg := by
  simp only [State.powerOn]
@[simp] theorem State.reset_mem : State.reset.mem = powerOnMemory defaultConfig := by
  simp only [State.reset]
@[simp] theorem State.reset_cfg : State.reset.cfg = defaultConfig := by
  simp only [State.reset]

end Sys2Proof.Machine
end

