-- ==== Sys2Proof/Laws/Ops.lean ====
section
/-! SUPPORT. One law for each shared operation: all it can do when it answers. Cite these instead of unfolding the
operations of Machine/Operands.lean, Flags.lean, Ops.lean and Cycle.lean. -/

namespace Sys2Proof.Machine

/-! ### Operands -/

theorem alignDown_eq_shift (w : Width) (a : Long) (n : Nat) (hn : widthBytes w = 2 ^ n) (h5 : n < 3) :
    alignDown w a = (a >>> n) <<< n := by
  have mask : ∀ n : Fin 3, ∀ k : Fin 32, (~~~(BitVec.ofNat 32 (2 ^ n.val - 1))).getLsbD k.val = decide (n.val ≤ k.val) := by
    decide
  apply BitVec.eq_of_getLsbD_eq
  intro k hk
  rw [alignDown, hn, BitVec.getLsbD_and, mask ⟨n, h5⟩ ⟨k, hk⟩, BitVec.getLsbD_shiftLeft, BitVec.getLsbD_ushiftRight]
  by_cases h : n ≤ k
  · simp [h, hk, Nat.not_lt.2 h]
  · simp [h]

/-- 20_memory R64: the low bits are cleared. -/
theorem alignDown_toNat (w : Width) (a : Long) : (alignDown w a).toNat = a.toNat - a.toNat % widthBytes w := by
  have ha := a.isLt
  cases w
  · rw [alignDown_eq_shift .byte a 0 rfl (by decide)]; simp [widthBytes, Nat.mod_one]
  · rw [alignDown_eq_shift .word a 1 rfl (by decide), BitVec.toNat_shiftLeft, BitVec.toNat_ushiftRight]
    simp only [widthBytes, Nat.shiftRight_eq_div_pow, Nat.shiftLeft_eq]; omega
  · rw [alignDown_eq_shift .long a 2 rfl (by decide), BitVec.toNat_shiftLeft, BitVec.toNat_ushiftRight]
    simp only [widthBytes, Nat.shiftRight_eq_div_pow, Nat.shiftLeft_eq]; omega

theorem alignDown_of_aligned {w : Width} {a : Long} (h : a.toNat % widthBytes w = 0) : alignDown w a = a := by
  apply BitVec.eq_of_toNat_eq
  rw [alignDown_toNat, h, Nat.sub_zero]

@[simp] theorem alignDown_idem (w : Width) (a : Long) : alignDown w (alignDown w a) = alignDown w a := by
  apply alignDown_of_aligned
  rw [alignDown_toNat]
  cases w <;> simp only [widthBytes] <;> omega

theorem alignDown_ne_iff (w : Width) (a : Long) : alignDown w a ≠ a ↔ a.toNat % widthBytes w ≠ 0 := by
  rw [Ne, ← BitVec.toNat_inj, alignDown_toNat]
  have : a.toNat % widthBytes w ≤ a.toNat := Nat.mod_le _ _
  omega

@[simp] theorem storeBytes_length (w : Width) (v : Long) : (storeBytes w v).length = widthBytes w := by
  cases w <;> rfl

theorem extractByte (v : Long) (k : Nat) : v.extractLsb' k 8 = (v >>> k).setWidth 8 := by
  apply BitVec.eq_of_toNat_eq
  simp [BitVec.extractLsb'_toNat]

/-- Byte `k` of a stored operand is the `k`-th most significant one (20_memory R62, R71). -/
theorem storeBytes_getElem (w : Width) (v : Long) (k : Nat) (h : k < widthBytes w) :
    (storeBytes w v)[k]? = some ((v >>> (8 * (widthBytes w - 1 - k))).setWidth 8) := by
  cases w <;> simp only [widthBytes] at h ⊢
  · obtain rfl : k = 0 := by omega
    simp [storeBytes, extractByte]
  · obtain rfl | rfl : k = 0 ∨ k = 1 := by omega
    all_goals simp [storeBytes, extractByte]
  · obtain rfl | rfl | rfl | rfl : k = 0 ∨ k = 1 ∨ k = 2 ∨ k = 3 := by omega
    all_goals simp [storeBytes, extractByte]

theorem quick_eq (f : Field) : quick f = quickValue f := by
  simp [quick, quickValue, ← BitVec.toNat_inj]

theorem signed5_eq (f : Field) : signed5 f = signedValue f := by
  have := f.isLt
  simp only [signed5, signedValue, BitVec.toInt_eq_toNat_cond]
  split <;> split <;> omega

/-! ### Reading bytes -/

/-- A byte read answers the byte, or faults at the address that has none. -/
theorem State.readByte_eq (s : State) (a : Nat) :
    s.readByte a = match s.mem.read a with | some v => .ok v | none => .error (.unwrittenByte a) := rfl

/-- The reads depend on the memory alone. -/
theorem State.readWidth_congr {s t : State} (h : s.mem = t.mem) (w : Width) (a : Nat) :
    s.readWidth w a = t.readWidth w a := by
  cases w <;> simp [State.readWidth, State.readWord, State.readLong, State.readByte, h]

theorem State.readLong_congr {s t : State} (h : s.mem = t.mem) (a : Nat) : s.readLong a = t.readLong a := by
  simp [State.readLong, State.readByte, h]

theorem State.readWord_congr {s t : State} (h : s.mem = t.mem) (a : Nat) : s.readWord a = t.readWord a := by
  simp [State.readWord, State.readByte, h]

/-- A read of written bytes answers their big-endian value (20_memory R62). -/
theorem State.readWidth_of_bytes (s : State) (w : Width) (a : Nat) (bs : List Byte) (hl : bs.length = widthBytes w)
    (hb : ∀ k : Nat, ∀ h : k < bs.length, s.mem.read (a + k) = some bs[k]) :
    s.readWidth w a = .ok (BitVec.ofNat 32 (bigEndian bs)) ∧ bigEndian bs < 2 ^ (8 * widthBytes w) := by
  cases w
  · obtain ⟨b, rfl⟩ : ∃ b, bs = [b] := List.length_eq_one_iff.1 hl
    have h0 := hb 0 (by simp)
    have := b.isLt
    simp only [Nat.add_zero, List.getElem_cons_zero] at h0
    refine ⟨?_, by simp [bigEndian, widthBytes]; omega⟩
    simp only [State.readWidth, State.readByte, h0]
    refine congrArg Except.ok (BitVec.eq_of_toNat_eq ?_)
    simp [bigEndian]
  · obtain ⟨b, c, rfl⟩ : ∃ b c, bs = [b, c] := List.length_eq_two.1 hl
    have h0 := hb 0 (by simp)
    have h1 := hb 1 (by simp)
    have := b.isLt
    have := c.isLt
    simp only [Nat.add_zero, List.getElem_cons_zero, List.getElem_cons_succ] at h0 h1
    refine ⟨?_, by simp [bigEndian, widthBytes]; omega⟩
    simp only [State.readWidth, State.readWord, State.readByte, h0, h1]
    refine congrArg Except.ok (BitVec.eq_of_toNat_eq ?_)
    simp only [BitVec.toNat_setWidth, BitVec.toNat_append, Nat.shiftLeft_eq, BitVec.toNat_ofNat, bigEndian,
      List.foldl_cons, List.foldl_nil]
    rw [← Nat.shiftLeft_eq, ← Nat.shiftLeft_add_eq_or_of_lt c.isLt, Nat.shiftLeft_eq]
    omega
  · obtain ⟨b, c, d, e, rfl⟩ : ∃ b c d e, bs = [b, c, d, e] := by
      match bs, hl with
      | [b, c, d, e], _ => exact ⟨b, c, d, e, rfl⟩
    have h0 := hb 0 (by simp)
    have h1 := hb 1 (by simp)
    have h2 := hb 2 (by simp)
    have h3 := hb 3 (by simp)
    have := b.isLt
    have := c.isLt
    have := d.isLt
    have := e.isLt
    simp only [Nat.add_zero, List.getElem_cons_zero, List.getElem_cons_succ] at h0 h1 h2 h3
    refine ⟨?_, by simp [bigEndian, widthBytes]; omega⟩
    simp only [State.readWidth, State.readLong, State.readByte, h0, h1, h2, h3]
    refine congrArg Except.ok (BitVec.eq_of_toNat_eq ?_)
    simp only [BitVec.toNat_append, BitVec.toNat_ofNat, bigEndian, List.foldl_cons, List.foldl_nil]
    rw [← Nat.shiftLeft_add_eq_or_of_lt c.isLt, ← Nat.shiftLeft_add_eq_or_of_lt d.isLt,
      ← Nat.shiftLeft_add_eq_or_of_lt e.isLt]
    simp only [Nat.shiftLeft_eq]
    omega

/-- A read that answers a value found a byte at each of its addresses. -/
theorem State.bytes_of_readWidth {s : State} {w : Width} {a : Nat} {v : Long} (h : s.readWidth w a = .ok v) :
    ∃ bs : List Byte, bs.length = widthBytes w
      ∧ (∀ k : Nat, ∀ h : k < bs.length, s.mem.read (a + k) = some bs[k]) ∧ v = BitVec.ofNat 32 (bigEndian bs) := by
  have key : ∀ bs : List Byte, bs.length = widthBytes w →
      (∀ k : Nat, ∀ h : k < bs.length, s.mem.read (a + k) = some bs[k]) →
      ∃ bs : List Byte, bs.length = widthBytes w
        ∧ (∀ k : Nat, ∀ h : k < bs.length, s.mem.read (a + k) = some bs[k]) ∧ v = BitVec.ofNat 32 (bigEndian bs) := by
    intro bs hl hb
    refine ⟨bs, hl, hb, ?_⟩
    have := (s.readWidth_of_bytes w a bs hl hb).1
    rw [h] at this
    exact Except.ok.inj this
  cases w
  · simp only [State.readWidth, State.readByte] at h
    cases h0 : s.mem.read a <;> simp only [h0] at h
    · cases h
    · next b =>
      refine key [b] rfl ?_
      intro k hk
      obtain rfl : k = 0 := by simpa using hk
      simpa using h0
  · simp only [State.readWidth, State.readWord, State.readByte] at h
    cases h0 : s.mem.read a <;> simp only [h0] at h
    · cases h
    cases h1 : s.mem.read (a + 1) <;> simp only [h1] at h
    · cases h
    · next b c =>
      refine key [b, c] rfl ?_
      intro k hk
      rcases k with _ | _ | k
      · simpa using h0
      · simpa using h1
      · simp at hk
  · simp only [State.readWidth, State.readLong, State.readByte] at h
    cases h0 : s.mem.read a <;> simp only [h0] at h
    · cases h
    cases h1 : s.mem.read (a + 1) <;> simp only [h1] at h
    · cases h
    cases h2 : s.mem.read (a + 2) <;> simp only [h2] at h
    · cases h
    cases h3 : s.mem.read (a + 3) <;> simp only [h3] at h
    · cases h
    · next b c d e =>
      refine key [b, c, d, e] rfl ?_
      intro k hk
      rcases k with _ | _ | _ | _ | k
      · simpa using h0
      · simpa using h1
      · simpa using h2
      · simpa using h3
      · simp only [List.length_cons, List.length_nil] at hk; omega

/-- A read that faults met a byte that has no value. -/
theorem State.readWidth_error {s : State} {w : Width} {a : Nat} {f : Fault} (h : s.readWidth w a = .error f) :
    ∃ x, f = .unwrittenByte x ∧ s.mem.read x = none := by
  cases w
  · simp only [State.readWidth, State.readByte] at h
    cases h0 : s.mem.read a <;> simp only [h0] at h <;> cases h
    exact ⟨_, rfl, h0⟩
  · simp only [State.readWidth, State.readWord, State.readByte] at h
    cases h0 : s.mem.read a <;> simp only [h0] at h
    · cases h; exact ⟨_, rfl, h0⟩
    cases h1 : s.mem.read (a + 1) <;> simp only [h1] at h <;> cases h
    exact ⟨_, rfl, h1⟩
  · simp only [State.readWidth, State.readLong, State.readByte] at h
    cases h0 : s.mem.read a <;> simp only [h0] at h
    · cases h; exact ⟨_, rfl, h0⟩
    cases h1 : s.mem.read (a + 1) <;> simp only [h1] at h
    · cases h; exact ⟨_, rfl, h1⟩
    cases h2 : s.mem.read (a + 2) <;> simp only [h2] at h
    · cases h; exact ⟨_, rfl, h2⟩
    cases h3 : s.mem.read (a + 3) <;> simp only [h3] at h <;> cases h
    exact ⟨_, rfl, h3⟩

theorem State.readLong_error {s : State} {a : Nat} {f : Fault} (h : s.readLong a = .error f) :
    ∃ x, f = .unwrittenByte x ∧ s.mem.read x = none :=
  State.readWidth_error (w := .long) h

/-! ### The access primitives -/

theorem State.addressClass_outOfBounds (s : State) (a : Long) (n : Nat) :
    s.addressClass a n = .outOfBounds ↔ s.outOfBounds a n = true := by
  unfold State.addressClass
  repeat' split
  all_goals simp_all

theorem State.addressClass_internalRam (s : State) (a : Long) (n : Nat) :
    s.addressClass a n = .internalRam ↔ s.outOfBounds a n = false ∧ s.inWindow a = true := by
  unfold State.addressClass
  repeat' split
  all_goals simp_all

/-- The parameters of the current mode are those the mode selects (10_state R33). -/
theorem State.params_eq (s : State) : s.params = s.modeParams := by
  unfold State.params State.modeParams Config.params
  cases s.mode <;> rfl

/-- The window test, written out (20_memory R74). -/
theorem State.inWindow_iff (s : State) (a : Long) :
    s.inWindow a = true ↔ s.modeParams.iramBase.toNat ≤ a.toNat
      ∧ a.toNat < s.modeParams.iramBase.toNat + s.windowSize := by
  rw [show s.windowSize = Config.iramSize s.mode by unfold State.windowSize; cases s.mode <;> rfl]
  simp [State.inWindow, State.params_eq]

/-- The advisory reports of an in-bounds access (20_memory R64, R74). -/
theorem State.notes_eq (s : State) (w : Width) (addr : Long)
    (h : s.outOfBounds (alignDown w addr) (widthBytes w) = false) :
    (s.noteAlignment w addr).noteRestricted w (alignDown w addr)
      = { s with reports := s.reports ++ advisories s w addr } := by
  have hc : (s.noteAlignment w addr).addressClass (alignDown w addr) (widthBytes w)
      = s.addressClass (alignDown w addr) (widthBytes w) := by
    unfold State.noteAlignment; split <;> rfl
  unfold State.noteRestricted
  simp only [hc, State.addressClass_internalRam, State.inWindow_iff]
  unfold State.noteAlignment advisories
  simp only [h, true_and, alignDown_ne_iff]
  split <;> split <;> simp [State.report]

/-- All that `MemRead` does (20_memory R70): out of bounds it reports and answers the sentinel; in bounds it reads, and
adds the advisory reports. -/
theorem State.memRead_eq (s : State) (w : Width) (addr : Long) :
    s.memRead w addr =
      if s.outOfBounds (alignDown w addr) (widthBytes w) = true
      then .ok (Config.oobSentinel, { s with reports := s.reports ++ boundsReports s w addr })
      else (s.readWidth w (alignDown w addr).toNat).map
        (fun v => (v, { s with reports := s.reports ++ advisories s w addr })) := by
  have hc : (s.noteAlignment w addr).addressClass (alignDown w addr) (widthBytes w)
      = s.addressClass (alignDown w addr) (widthBytes w) := by
    unfold State.noteAlignment; split <;> rfl
  simp only [State.memRead, hc, State.addressClass_outOfBounds]
  split
  · simp only [State.noteAlignment, boundsReports, alignDown_ne_iff]
    split <;> simp [State.report]
  · next h =>
    rw [State.notes_eq s w addr (by simpa using h),
      State.readWidth_congr (s := { s with reports := s.reports ++ advisories s w addr }) (t := s) rfl]
    cases s.readWidth w (alignDown w addr).toNat <;> rfl

/-- All that `MemWrite` does (20_memory R71): out of bounds it reports; in bounds it stores the bytes and runs the write
hook. -/
theorem State.memWrite_eq (s : State) (w : Width) (addr v : Long) :
    s.memWrite w addr v =
      if s.outOfBounds (alignDown w addr) (widthBytes w) = true
      then .ok { s with reports := s.reports ++ boundsReports s w addr }
      else ({ s.stored w addr v with reports := s.reports ++ advisories s w addr } : State).writeHook := by
  have hc : (s.noteAlignment w addr).addressClass (alignDown w addr) (widthBytes w)
      = s.addressClass (alignDown w addr) (widthBytes w) := by
    unfold State.noteAlignment; split <;> rfl
  simp only [State.memWrite, hc, State.addressClass_outOfBounds]
  split
  · simp only [State.noteAlignment, boundsReports, alignDown_ne_iff]
    split <;> simp [State.report]
  · next h => rw [State.notes_eq s w addr (by simpa using h)]; rfl

/-- All that `Fetch` does (20_memory R72) at an even address. -/
theorem State.fetch_eq (s : State) (addr : Long) (he : addr.getLsbD 0 = false) :
    s.fetch addr =
      if s.outOfBounds addr 2 = true then .ok (0xFFFF, { s with reports := s.reports ++ [.outOfBounds addr 2] })
      else (s.readWord addr.toNat).map (fun v => (v, s)) := by
  have ha : addr.toNat % 2 = 0 := by
    simp only [BitVec.getLsbD, Nat.testBit_zero, decide_eq_false_iff_not] at he; omega
  have hd : alignDown .word addr = addr := alignDown_of_aligned ha
  have hn : s.noteAlignment .word addr = s := by simp [State.noteAlignment, hd]
  simp only [State.fetch, hd, hn]
  split
  · rfl
  · cases s.readWord addr.toNat <;> rfl

/-- All that the write hook does when it answers (20_memory R76, R77). -/
theorem State.writeHook_ok {s t : State} (h : s.writeHook = .ok t) :
    ∃ f, s.readLong s.modeParams.flagsAddr.toNat = .ok f ∧
      ((s.runState ≠ .running ∧ t = { s with bank := f.getLsbD 14 })
        ∨ (s.runState = .running ∧ ∃ c, s.readLong s.modeParams.ctrlAddr.toNat = .ok c ∧
          ((c.getLsbD s.cfg.enableBit = true ∧ t = { s with bank := f.getLsbD 14 })
            ∨ (c.getLsbD s.cfg.enableBit = false ∧
              t = { s with bank := f.getLsbD 14, selfStop := true, reports := s.reports ++ [.selfStop] })))) := by
  rw [← State.params_eq]
  unfold State.writeHook at h
  cases hf : s.readLong s.params.flagsAddr.toNat with
  | error e => rw [hf] at h; cases h
  | ok f =>
    rw [hf] at h
    change ({ s with bank := f.getLsbD 14 } : State).selfStopCheck = .ok t at h
    refine ⟨f, rfl, ?_⟩
    unfold State.selfStopCheck at h
    split at h
    · next hr =>
      have hr' : s.runState = .running := by simpa [State.runActive] using hr
      refine .inr ⟨hr', ?_⟩
      rw [State.readLong_congr (s := { s with bank := f.getLsbD 14 }) (t := s) rfl] at h
      change (s.readLong s.params.ctrlAddr.toNat >>= _) = _ at h
      cases hc : s.readLong s.params.ctrlAddr.toNat with
      | error e => rw [hc] at h; cases h
      | ok c =>
        rw [hc] at h
        refine ⟨c, rfl, ?_⟩
        change (if c.getLsbD s.cfg.enableBit = true then _ else _) = _ at h
        split at h
        · next hb => exact .inl ⟨hb, (Except.ok.inj h).symm⟩
        · next hb => exact .inr ⟨by simpa using hb, (Except.ok.inj h).symm⟩
    · next hr =>
      exact .inl ⟨by simpa [State.runActive] using hr, (Except.ok.inj h).symm⟩

/-- The write hook faults only at a byte that has no value. -/
theorem State.writeHook_error {s : State} {f : Fault} (h : s.writeHook = .error f) :
    ∃ x, f = .unwrittenByte x ∧ s.mem.read x = none := by
  unfold State.writeHook at h
  cases hf : s.readLong s.params.flagsAddr.toNat with
  | error e => rw [hf] at h; cases h; exact State.readLong_error hf
  | ok v =>
    rw [hf] at h
    change ({ s with bank := v.getLsbD 14 } : State).selfStopCheck = .error f at h
    unfold State.selfStopCheck at h
    split at h
    · rw [State.readLong_congr (s := { s with bank := v.getLsbD 14 }) (t := s) rfl] at h
      change (s.readLong s.params.ctrlAddr.toNat >>= _) = _ at h
      cases hc : s.readLong s.params.ctrlAddr.toNat with
      | error e => rw [hc] at h; cases h; exact State.readLong_error hc
      | ok c =>
        rw [hc] at h
        change (if c.getLsbD s.cfg.enableBit = true then _ else _) = _ at h
        split at h <;> cases h
    · cases h

/-- The write hook answers when the registers it reads have a value, and faults otherwise. -/
theorem State.writeHook_answers {s : State} {f : Long} (hf : s.readLong s.modeParams.flagsAddr.toNat = .ok f)
    (hc : s.runState = .running → ∃ c, s.readLong s.modeParams.ctrlAddr.toNat = .ok c) : ∃ t, s.writeHook = .ok t := by
  rw [← State.params_eq] at hf hc
  unfold State.writeHook
  rw [hf]
  change ∃ t, ({ s with bank := f.getLsbD 14 } : State).selfStopCheck = .ok t
  unfold State.selfStopCheck
  split
  · next hr =>
    obtain ⟨c, hc⟩ := hc (by simpa [State.runActive] using hr)
    rw [State.readLong_congr (s := { s with bank := f.getLsbD 14 }) (t := s) rfl]
    change ∃ t, (s.readLong s.params.ctrlAddr.toNat >>= _) = .ok t
    rw [hc]
    change ∃ t, (if c.getLsbD s.cfg.enableBit = true then _ else _) = Except.ok t
    split <;> exact ⟨_, rfl⟩
  · exact ⟨_, rfl⟩

/-- What a write that answers leaves in memory: the old bytes when it is out of bounds, else the operand's bytes stored
(20_memory R71). -/
theorem State.memWrite_mem {s t : State} {w : Width} {addr v : Long} (h : s.memWrite w addr v = .ok t) :
    t.mem = if s.outOfBounds (alignDown w addr) (widthBytes w) = true then s.mem
      else s.mem.writeBytes (alignDown w addr).toNat (storeBytes w v) := by
  rw [State.memWrite_eq] at h
  split at h
  · next ho => cases h; rw [if_pos ho]
  · next ho =>
    rw [if_neg ho]
    obtain ⟨f, -, ⟨-, rfl⟩ | ⟨-, c, -, ⟨-, rfl⟩ | ⟨-, rfl⟩⟩⟩ := State.writeHook_ok h <;> rfl

/-- A write keeps the canonical form of memory. -/
theorem State.memWrite_wf {s t : State} {w : Width} {addr v : Long} (h : s.memWrite w addr v = .ok t)
    (hm : s.mem.wf) : t.mem.wf := by
  rw [State.memWrite_mem h]
  split
  · exact hm
  · exact Memory.writeBytes_wf hm _ _

/-- A write faults only at a byte that has no value. -/
theorem State.memWrite_error {s : State} {w : Width} {addr v : Long} {f : Fault} (h : s.memWrite w addr v = .error f) :
    ∃ x, f = .unwrittenByte x ∧ s.mem.read x = none := by
  rw [State.memWrite_eq] at h
  split at h
  · cases h
  · obtain ⟨x, rfl, hx⟩ := State.writeHook_error h
    refine ⟨x, rfl, ?_⟩
    have hx' : (s.stored w addr v).mem.read x = none := hx
    simp only [State.stored, State.putBytes_mem, Memory.read_writeBytes, storeBytes_length] at hx'
    split at hx'
    · rw [List.getElem?_eq_none_iff, storeBytes_length] at hx'
      omega
    · exact hx'

/-- A read faults only at a byte that has no value. -/
theorem State.memRead_error {s : State} {w : Width} {addr : Long} {f : Fault} (h : s.memRead w addr = .error f) :
    ∃ x, f = .unwrittenByte x ∧ s.mem.read x = none := by
  rw [State.memRead_eq] at h
  split at h
  · cases h
  · cases hr : s.readWidth w (alignDown w addr).toNat with
    | error e => rw [hr] at h; cases h; exact State.readWidth_error hr
    | ok x => rw [hr] at h; cases h

/-! ### The delay slot -/

/-- All that the commit does (45_control R224, R225). -/
theorem State.commitDelaySlot_eq (s : State) (isBranch : Bool) :
    s.commitDelaySlot isBranch =
      if isBranch = true ∨ s.ds.pending = false then s
      else if s.outOfBounds s.ds.target 2 = true
      then ({ s with reports := s.reports ++ [.pcOutOfBounds s.ds.target] } : State).resetCore
      else { s with pc := s.ds.target, ds := { target := s.ds.target, pending := false } } := by
  unfold State.commitDelaySlot
  cases isBranch <;> cases hp : s.ds.pending <;> simp only [Bool.false_eq_true, Bool.true_eq_false, and_self, and_true,
    and_false, or_self, or_true, or_false, if_true, if_false]
  unfold State.checkPc
  have ho : ({ s with pc := s.ds.target, ds := { s.ds with pending := false } } : State).outOfBounds s.ds.target 2
      = s.outOfBounds s.ds.target 2 := rfl
  simp only [ho]
  split <;> rfl

/-! ### Reset -/

/-- The memory at power-on is canonical, for all parameters. -/
theorem powerOnMemory_wf (c : Config) : (powerOnMemory c).wf := by
  unfold powerOnMemory
  suffices h : ∀ (rs : List (Long × Long)) (m : Memory), m.wf → (rs.foldl Memory.withLong m).wf from
    h _ _ List.Pairwise.nil
  intro rs
  induction rs with
  | nil => exact fun m h => h
  | cons r rs ih => exact fun m h => ih _ (Memory.writeBytes_wf h _ _)

/-- A register that the list names has all its bytes at power-on, for all parameters. -/
theorem powerOnMemory_isSome {c : Config} {r : Long} (hr : r ∈ c.registerAddrs) {k : Nat} (hk : k < 4) :
    ((powerOnMemory c).read (r.toNat + k)).isSome = true := by
  have keep : ∀ (rs : List (Long × Long)) (m : Memory), (m.read (r.toNat + k)).isSome = true →
      ((rs.foldl Memory.withLong m).read (r.toNat + k)).isSome = true := by
    intro rs
    induction rs with
    | nil => exact fun m h => h
    | cons q rs ih => exact fun m h => ih _ (Memory.isSome_writeBytes h)
  have key : ∀ (rs : List (Long × Long)) (m : Memory), r ∈ rs.map Prod.fst →
      ((rs.foldl Memory.withLong m).read (r.toNat + k)).isSome = true := by
    intro rs
    induction rs with
    | nil => intro m h; cases h
    | cons q rs ih =>
      intro m h
      rcases List.mem_cons.1 h with rfl | h
      · refine keep rs _ ?_
        unfold Memory.withLong
        rw [Memory.read_writeBytes, if_pos (by simp [bytesOfWords, bytesOfWord]; omega)]
        simp [bytesOfWords, bytesOfWord, hk]
      · exact ih _ h
  refine key _ _ ?_
  simpa [powerOnRegisters, Config.registerAddrs] using hr

/-- The state after reset is what `Reset()` makes of the power-on state (70_reset R300, 10_state R52; log entry 10). -/
theorem State.reset_eq : State.reset = (State.powerOn defaultConfig).resetCore := rfl

theorem State.reset_memory_wf : State.reset.mem.wf := powerOnMemory_wf defaultConfig

end Sys2Proof.Machine
end

