-- ==== Sys2Proof/Laws/Bits.lean ====
section
/-! SUPPORT. One law for each 32-bit operation that instructions share: the flags of a result, sums and differences,
saturation, division, each bit of a shift, a rotate and a pack. -/

namespace Sys2Proof.Machine

/-! ### Results and flags -/

theorem sign_bit (v : Long) : v.getLsbD 31 = decide (2 ^ 31 ≤ v.toNat) := by
  have := v.isLt
  simp only [BitVec.getLsbD, Nat.testBit_eq_decide_div_mod_eq]
  congr 1
  apply propext
  omega

theorem sign_bit_toInt (v : Long) : v.getLsbD 31 = decide (v.toInt < 0) := by
  have := v.isLt
  rw [BitVec.toInt_eq_toNat_cond, sign_bit]
  split <;> simp <;> omega

theorem trunc32_toNat (v : Int) : ((trunc32 v).toNat : Int) = v % 2 ^ 32 := by
  simp only [trunc32, BitVec.toNat_ofInt]
  rw [Int.toNat_of_nonneg (Int.emod_nonneg _ (by decide))]
  rfl

/-- `SetZN` (40_arithmetic R130). -/
theorem State.setZN_flags (s : State) (v : Long) : ZNFrom (s.setZN v) v := by
  have := v.isLt
  simp only [ZNFrom, State.setZN_z, State.setZN_n, beq_iff_eq, true_and]
  rw [sign_bit_toInt]
  simp

theorem sumOf_toNat (x y : Long) (c : Bool) : (sumOf x y c).toNat = (x.toNat + y.toNat + c.toNat) % 2 ^ 32 := by
  simp [sumOf]

theorem differenceOf_toNat (x y : Long) (c : Bool) :
    ((differenceOf x y c).toNat : Int) = ((x.toNat : Int) - y.toNat - c.toNat) % 2 ^ 32 := trunc32_toNat _

theorem saturate_toInt (hi : Nat) (v : Long) (h : hi < 2 ^ 31) :
    (saturate hi v).toInt = max 0 (min (hi : Int) v.toInt) := by
  simp only [saturate, trunc32, BitVec.toInt_ofInt]
  have e : (if v.toInt < 0 then (0 : Int) else if v.toInt > hi then hi else v.toInt)
      = max 0 (min (hi : Int) v.toInt) := by
    split
    · omega
    · split <;> omega
  rw [e]
  apply Int.bmod_eq_of_le <;> omega

theorem divQuotient_toNat (n d : Long) : (divQuotient n d).toNat = n.toNat / d.toNat := by
  unfold divQuotient
  split
  · next h => simp [h]
  · rw [BitVec.toNat_ofNat]
    exact Nat.mod_eq_of_lt (Nat.lt_of_le_of_lt (Nat.div_le_self _ _) n.isLt)

theorem divRemainder_toNat {n d : Long} (h : d ≠ 0) : (divRemainder n d).toNat = n.toNat % d.toNat := by
  have h1 := Nat.div_add_mod' n.toNat d.toNat
  have h2 := n.isLt
  simp only [divRemainder, h, if_false, BitVec.toNat_ofNat]
  omega

/-! ### Shifts (42_shift R172) -/

theorem lsr_bit (v : Long) (n k : Nat) : (lsr v n).getLsbD k = v.getLsbD (k + n) := by
  have e : lsr v n = v >>> n := by
    apply BitVec.eq_of_toNat_eq
    simp only [lsr, BitVec.toNat_ofNat, BitVec.toNat_ushiftRight, Nat.shiftRight_eq_div_pow]
    exact Nat.mod_eq_of_lt (Nat.lt_of_le_of_lt (Nat.div_le_self _ _) v.isLt)
  rw [e, BitVec.getLsbD_ushiftRight, Nat.add_comm]

theorem lsl_bit (v : Long) (n : Nat) {k : Nat} (hk : k < 32) :
    (lsl v n).getLsbD k = (decide (n ≤ k) && v.getLsbD (k - n)) := by
  have e : lsl v n = v <<< n := by
    apply BitVec.eq_of_toNat_eq
    simp only [lsl, BitVec.toNat_ofNat, BitVec.toNat_shiftLeft, Nat.shiftLeft_eq]
  rw [e, BitVec.getLsbD_shiftLeft, Bool.eq_iff_iff]
  by_cases h : k < n
  · simp [h, hk]
  · simp [h, hk]; omega

theorem asr_bit (v : Long) (n : Nat) {k : Nat} (hk : k < 32) : (asr v n).getLsbD k = v.getLsbD (min 31 (k + n)) := by
  have e : asr v n = v.sshiftRight n := by
    apply BitVec.eq_of_toInt_eq
    rw [BitVec.toInt_sshiftRight, Int.shiftRight_eq_div_pow, asr, trunc32, BitVec.toInt_ofInt]
    have h1 := BitVec.le_toInt v
    have h2 := BitVec.toInt_lt (x := v)
    norm_num at h1 h2
    have hp : (0 : Int) < 2 ^ n := by positivity
    have hp1 : (1 : Int) ≤ 2 ^ n := hp
    apply Int.bmod_eq_of_le
    · norm_num
      rw [Int.le_ediv_iff_mul_le hp]
      nlinarith
    · norm_num
      rw [Int.ediv_lt_iff_lt_mul hp]
      nlinarith
  rw [e, BitVec.getLsbD_sshiftRight]
  simp only [Nat.not_le.2 hk, decide_false, Bool.not_false, Bool.true_and]
  split
  · next h => rw [show min 31 (k + n) = k + n by omega, Nat.add_comm]
  · next h => rw [show min 31 (k + n) = 31 by omega]; rfl

theorem rotr_bit (v : Long) (a : Int) {k : Nat} (hk : k < 32) :
    (rotr v a).getLsbD k = v.getLsbD ((k + (a % 32).toNat) % 32) := by
  unfold rotr
  generalize hh : (a % 32).toNat = r
  have hr : r < 32 := by omega
  rw [BitVec.getLsbD_or, lsr_bit, lsl_bit _ _ hk]
  by_cases h : k + r < 32
  · rw [Nat.mod_eq_of_lt h]
    by_cases h0 : r = 0
    · subst h0; simp
    · rw [Nat.mod_eq_of_lt (show 32 - r < 32 by omega)]
      simp
      omega
  · rw [Nat.mod_eq_of_lt (show 32 - r < 32 by omega), BitVec.getLsbD_of_ge v (k + r) (by omega)]
    rw [show (k + r) % 32 = k - (32 - r) by omega]
    simp
    omega

/-! ### Pack and unpack (46_pack) -/

theorem pack_masks : ∀ k : Fin 32,
    (0x0000F000 : Long).getLsbD k.val = decide (12 ≤ k.val ∧ k.val < 16)
    ∧ (0x00000F00 : Long).getLsbD k.val = decide (8 ≤ k.val ∧ k.val < 12)
    ∧ (0x000000FF : Long).getLsbD k.val = decide (k.val < 8) := by decide

theorem packed_bit (v : Long) {k : Nat} (hk : k < 32) :
    (packed v).getLsbD k = if k < 8 then v.getLsbD k else if k < 12 then v.getLsbD (k + 5)
      else if k < 16 then v.getLsbD (k + 10) else false := by
  obtain ⟨m1, m2, m3⟩ := pack_masks ⟨k, hk⟩
  simp only at m1 m2 m3
  simp only [packed, BitVec.getLsbD_or, BitVec.getLsbD_and, BitVec.getLsbD_ushiftRight]
  rw [m1, m2, m3, Nat.add_comm 10, Nat.add_comm 5, Bool.eq_iff_iff]
  grind

theorem unpacked_bit (v : Long) {k : Nat} (hk : k < 32) :
    (unpacked v).getLsbD k = if k < 8 then v.getLsbD k else if 13 ≤ k ∧ k < 17 then v.getLsbD (k - 5)
      else if 22 ≤ k ∧ k < 26 then v.getLsbD (k - 10) else false := by
  have m1 := (pack_masks ⟨k - 10, by omega⟩).1
  have m2 := (pack_masks ⟨k - 5, by omega⟩).2.1
  have m3 := (pack_masks ⟨k, hk⟩).2.2
  simp only at m1 m2 m3
  simp only [unpacked, BitVec.getLsbD_or, BitVec.getLsbD_and, BitVec.getLsbD_shiftLeft]
  rw [m1, m2, m3, Bool.eq_iff_iff]
  grind

end Sys2Proof.Machine
end

