-- ==== Sys2Proof/Laws/Cycle.lean ====
section
/-! SUPPORT. One law for each operation of the instruction cycle (Machine/Cycle.lean): the fetch, the instruction of a
word, one executed instruction, a skip, and what a step is in each run state. -/

namespace Sys2Proof.Machine

/-- A fetch answers with the state it was given, but for the reports it made (20_memory R72). -/
theorem State.fetch_frame {s t : State} {a : Long} {w : Word} (h : s.fetch a = .ok (w, t)) :
    ∃ rs, t = { s with reports := s.reports ++ rs } := by
  unfold State.fetch at h
  have hn : ∃ rs, s.noteAlignment .word a = { s with reports := s.reports ++ rs } := by
    unfold State.noteAlignment
    split
    · exact ⟨_, rfl⟩
    · exact ⟨[], by simp⟩
  obtain ⟨rs, hrs⟩ := hn
  simp only [hrs] at h
  split at h
  · cases h
    exact ⟨rs ++ [.outOfBounds (alignDown .word a) 2], by simp [State.report]⟩
  · cases hr : ({ s with reports := s.reports ++ rs } : State).readWord (alignDown .word a).toNat with
    | error e => rw [hr] at h; cases h
    | ok x => rw [hr] at h; cases h; exact ⟨rs, rfl⟩

/-- The instruction of a word that is not `movei`'s is read from the word alone (30_encoding R103). -/
theorem State.instruction_of_word {s : State} {w : Word} (h : kindOfWord s.cfg.opcodeMap w ≠ .movei) :
    s.instruction w = .ok (decodeWord s.cfg.opcodeMap w 0, s) := by
  unfold State.instruction
  split
  · next hk => exact absurd hk h
  · rfl

/-- The instruction of a `movei` word takes two fetches (20_memory R73). -/
theorem State.instruction_of_movei {s s1 s2 : State} {w w1 w2 : Word} (h : kindOfWord s.cfg.opcodeMap w = .movei)
    (h1 : s.fetch (s.pc - 6 + 2) = .ok (w1, s1)) (h2 : s1.fetch (s.pc - 6 + 4) = .ok (w2, s2)) :
    s.instruction w = .ok (decodeWord s2.cfg.opcodeMap w (immediate s2.cfg.moveiWordOrder w1 w2), s2) := by
  have hi : s.fetchImmediate = .ok (immediate s2.cfg.moveiWordOrder w1 w2, s2) := by
    change (s.fetch (s.pc - 6 + 2) >>= fun p => p.2.fetch (s.pc - 6 + 4) >>= fun q =>
      pure (immediate q.2.cfg.moveiWordOrder p.1 q.1, q.2)) = _
    rw [h1]
    change (s1.fetch (s.pc - 6 + 4) >>= _) = _
    rw [h2]
    rfl
  unfold State.instruction
  rw [h]
  change (s.fetchImmediate >>= fun p => pure (decodeWord p.2.cfg.opcodeMap w p.1, p.2)) = _
  rw [hi]
  rfl

/-- An instruction that is read leaves the state as it was, but for the reports of its fetches. -/
theorem State.instruction_frame {s t : State} {w : Word} {i : Instr} (h : s.instruction w = .ok (i, t)) :
    (∃ rs, t = { s with reports := s.reports ++ rs }) ∧ ∃ imm, i = decodeWord s.cfg.opcodeMap w imm := by
  by_cases hk : kindOfWord s.cfg.opcodeMap w = .movei
  · cases h1 : s.fetch (s.pc - 6 + 2) with
    | error e =>
      unfold State.instruction at h
      rw [hk] at h
      change ((s.fetch (s.pc - 6 + 2) >>= _) >>= _) = _ at h
      rw [h1] at h
      cases h
    | ok p =>
      obtain ⟨w1, s1⟩ := p
      cases h2 : s1.fetch (s.pc - 6 + 4) with
      | error e =>
        unfold State.instruction at h
        rw [hk] at h
        change ((s.fetch (s.pc - 6 + 2) >>= fun p => p.2.fetch (s.pc - 6 + 4) >>= _) >>= _) = _ at h
        rw [h1] at h
        change ((s1.fetch (s.pc - 6 + 4) >>= _) >>= _) = _ at h
        rw [h2] at h
        cases h
      | ok q =>
        obtain ⟨w2, s2⟩ := q
        rw [State.instruction_of_movei hk h1 h2] at h
        cases h
        obtain ⟨rs, rfl⟩ := State.fetch_frame h1
        obtain ⟨rs', rfl⟩ := State.fetch_frame h2
        exact ⟨⟨rs ++ rs', by simp⟩, _, rfl⟩
  · rw [State.instruction_of_word hk] at h
    cases h
    exact ⟨⟨[], by simp⟩, _, rfl⟩

theorem opKind_width_cases (k : OpKind) : k.width = 2 ∨ k.width = 6 := by cases k <;> simp [OpKind.width]

/-- The length of the decoded instruction is the length of what the opcode selects (30_encoding R103). -/
theorem decodeWord_width (m : OpcodeMap) (w : Word) (imm : Long) :
    (decodeWord m w imm).width = (kindOfWord m w).width := by
  unfold decodeWord
  generalize kindOfWord m w = k
  cases k <;> try rfl
  simp only [Instr.ofKind]
  split
  · rfl
  · split <;> rfl

/-- All that one executed instruction is: `pc` past it, the reports of its fetches, its rule, the commit (45_control
R220). -/
theorem executeNext_next {s t : State} (h : executeNext s = .next t) :
    ∃ (i : Instr) (rs : List Report) (u : State), (i.width = 2 ∨ i.width = 6)
      ∧ exec i { s with pc := s.pc + BitVec.ofNat 32 i.width, reports := s.reports ++ rs } = .next u
      ∧ t = u.commitDelaySlot i.isBranch := by
  unfold executeNext at h
  split at h
  · next w s' hf =>
    obtain ⟨rs, rfl⟩ := State.fetch_frame hf
    unfold executeWord at h
    split at h
    · next i s'' hi =>
      obtain ⟨⟨rs', rfl⟩, imm, rfl⟩ := State.instruction_frame hi
      unfold execAndCommit at h
      split at h
      · next u hx =>
        cases h
        refine ⟨_, rs ++ rs', u, ?_, ?_, rfl⟩
        · rw [decodeWord_width]; exact opKind_width_cases _
        · rw [← hx, decodeWord_width]; simp [State.advance]
      · cases h
      · cases h
    · cases h
  · cases h

/-- All that a skip does (45_control R223). -/
theorem skipNext_next {s t : State} (h : skipNext s = .next t) :
    ∃ (k : OpKind) (rs : List Report),
      t = { s with pc := s.pc + BitVec.ofNat 32 k.width, reports := s.reports ++ rs } := by
  unfold skipNext at h
  split at h
  · next w s' hf =>
    obtain ⟨rs, rfl⟩ := State.fetch_frame hf
    cases h
    exact ⟨_, rs, rfl⟩
  · cases h

/-- A step of an idle machine (70_reset R313). -/
theorem step_of_idle {s : State} (hw : s.cfg.wf = true) (hr : s.runState = .idle) : step s = executeNext s := by
  unfold step machineStep
  rw [if_neg (by rw [hw]; decide)]
  split <;> simp_all

/-- A step of a running machine (70_reset R316). -/
theorem step_of_running {s : State} (hw : s.cfg.wf = true) (hr : s.runState = .running) :
    step s = runIteration s := by
  unfold step machineStep
  rw [if_neg (by rw [hw]; decide)]
  split <;> simp_all

/-- A step without an image (70_reset R310). -/
theorem step_of_noImage {s : State} (hw : s.cfg.wf = true) (hr : s.runState = .noImage) :
    step s = .next (s.reject (.operation .step)) := by
  unfold step machineStep
  rw [if_neg (by rw [hw]; decide)]
  split <;> simp_all

/-- The image load keeps the canonical form of memory (20_memory R90). -/
theorem loadBin_memory_wf (magic : Long) (file : Option (List Byte)) (address : Long) (s : State) (h : s.mem.wf) :
    (loadBin magic file address s).2.mem.wf := by
  unfold loadBin
  split
  · simpa using h
  · split
    · simpa using h
    · simp only
      split
      · simpa using h
      · simp only [State.resetCore_mem, State.putBytes_mem]
        exact Memory.writeBytes_wf h _ _

/-- Placing an instruction keeps the canonical form of memory. -/
theorem placeAtPc_memory_wf (s : State) (bs : List Byte) (h : s.mem.wf) : (s.placeAtPc bs).mem.wf :=
  Memory.writeBytes_wf h _ _

end Sys2Proof.Machine
end

