-- ==== Sys2Proof/Laws/PerInstr.lean ====
section
/-! SUPPORT. Statements made for every instruction, one lemma per constructor of `Instr`. -/

namespace Sys2Proof.Laws.EncodedLength

/-- The encoder gives an instruction as many bytes as 30_encoding R103 says it has. -/
def Statement (i : Instr) : Prop := ∀ (m : OpcodeMap) (order : WordOrder), 2 * (encode m order i).length = i.width

theorem add (a : Reg) (b : Reg) : Statement (.add a b) := fun _ _ => rfl
theorem addc (a : Reg) (b : Reg) : Statement (.addc a b) := fun _ _ => rfl
theorem addq (a : Field) (b : Reg) : Statement (.addq a b) := fun _ _ => rfl
theorem addqt (a : Field) (b : Reg) : Statement (.addqt a b) := fun _ _ => rfl
theorem sub (a : Reg) (b : Reg) : Statement (.sub a b) := fun _ _ => rfl
theorem subc (a : Reg) (b : Reg) : Statement (.subc a b) := fun _ _ => rfl
theorem subq (a : Field) (b : Reg) : Statement (.subq a b) := fun _ _ => rfl
theorem subqt (a : Field) (b : Reg) : Statement (.subqt a b) := fun _ _ => rfl
theorem neg (a : Field) (b : Reg) : Statement (.neg a b) := fun _ _ => rfl
theorem and (a : Reg) (b : Reg) : Statement (.and a b) := fun _ _ => rfl
theorem or (a : Reg) (b : Reg) : Statement (.or a b) := fun _ _ => rfl
theorem xor (a : Reg) (b : Reg) : Statement (.xor a b) := fun _ _ => rfl
theorem not (a : Field) (b : Reg) : Statement (.not a b) := fun _ _ => rfl
theorem btst (a : Field) (b : Reg) : Statement (.btst a b) := fun _ _ => rfl
theorem bset (a : Field) (b : Reg) : Statement (.bset a b) := fun _ _ => rfl
theorem bclr (a : Field) (b : Reg) : Statement (.bclr a b) := fun _ _ => rfl
theorem mult (a : Reg) (b : Reg) : Statement (.mult a b) := fun _ _ => rfl
theorem imult (a : Reg) (b : Reg) : Statement (.imult a b) := fun _ _ => rfl
theorem div (a : Reg) (b : Reg) : Statement (.div a b) := fun _ _ => rfl
theorem abs (a : Field) (b : Reg) : Statement (.abs a b) := fun _ _ => rfl
theorem sh (a : Reg) (b : Reg) : Statement (.sh a b) := fun _ _ => rfl
theorem shlq (a : Field) (b : Reg) : Statement (.shlq a b) := fun _ _ => rfl
theorem shrq (a : Field) (b : Reg) : Statement (.shrq a b) := fun _ _ => rfl
theorem sha (a : Reg) (b : Reg) : Statement (.sha a b) := fun _ _ => rfl
theorem sharq (a : Field) (b : Reg) : Statement (.sharq a b) := fun _ _ => rfl
theorem ror (a : Reg) (b : Reg) : Statement (.ror a b) := fun _ _ => rfl
theorem rorq (a : Field) (b : Reg) : Statement (.rorq a b) := fun _ _ => rfl
theorem cmp (a : Reg) (b : Reg) : Statement (.cmp a b) := fun _ _ => rfl
theorem cmpq (a : Field) (b : Reg) : Statement (.cmpq a b) := fun _ _ => rfl
theorem sat8 (a : Field) (b : Reg) : Statement (.sat8 a b) := fun _ _ => rfl
theorem sat16 (a : Field) (b : Reg) : Statement (.sat16 a b) := fun _ _ => rfl
theorem move (a : Reg) (b : Reg) : Statement (.move a b) := fun _ _ => rfl
theorem moveq (a : Field) (b : Reg) : Statement (.moveq a b) := fun _ _ => rfl
theorem moveta (a : Reg) (b : Reg) : Statement (.moveta a b) := fun _ _ => rfl
theorem movefa (a : Reg) (b : Reg) : Statement (.movefa a b) := fun _ _ => rfl
theorem movei (a : Field) (b : Reg) (imm : Long) : Statement (.movei a b imm) := fun _ order => by cases order <;> rfl
theorem loadb (a : Reg) (b : Reg) : Statement (.loadb a b) := fun _ _ => rfl
theorem loadw (a : Reg) (b : Reg) : Statement (.loadw a b) := fun _ _ => rfl
theorem load (a : Reg) (b : Reg) : Statement (.load a b) := fun _ _ => rfl
theorem loadR14n (a : Field) (b : Reg) : Statement (.loadR14n a b) := fun _ _ => rfl
theorem loadR15n (a : Field) (b : Reg) : Statement (.loadR15n a b) := fun _ _ => rfl
theorem storeb (a : Reg) (b : Reg) : Statement (.storeb a b) := fun _ _ => rfl
theorem storew (a : Reg) (b : Reg) : Statement (.storew a b) := fun _ _ => rfl
theorem store (a : Reg) (b : Reg) : Statement (.store a b) := fun _ _ => rfl
theorem storeR14n (a : Field) (b : Reg) : Statement (.storeR14n a b) := fun _ _ => rfl
theorem storeR15n (a : Field) (b : Reg) : Statement (.storeR15n a b) := fun _ _ => rfl
theorem movePc (a : Field) (b : Reg) : Statement (.movePc a b) := fun _ _ => rfl
theorem jump (a : Reg) (b : Field) : Statement (.jump a b) := fun _ _ => rfl
theorem jr (a : Field) (b : Field) : Statement (.jr a b) := fun _ _ => rfl
theorem nop (a : Field) (b : Field) : Statement (.nop a b) := fun _ _ => rfl
theorem loadR14rm (a : Reg) (b : Reg) : Statement (.loadR14rm a b) := fun _ _ => rfl
theorem loadR15rm (a : Reg) (b : Reg) : Statement (.loadR15rm a b) := fun _ _ => rfl
theorem storeR14rm (a : Reg) (b : Reg) : Statement (.storeR14rm a b) := fun _ _ => rfl
theorem storeR15rm (a : Reg) (b : Reg) : Statement (.storeR15rm a b) := fun _ _ => rfl
theorem sat24 (a : Field) (b : Reg) : Statement (.sat24 a b) := fun _ _ => rfl
theorem pack (b : Reg) : Statement (.pack b) := fun _ _ => rfl
theorem unpack (b : Reg) : Statement (.unpack b) := fun _ _ => rfl
theorem unknown (op : Opcode) (a : Field) (b : Field) : Statement (.unknown op a b) := fun _ _ => rfl

end Sys2Proof.Laws.EncodedLength
end

