-- ==== Sys2Proof/Tests/Slice0.lean ====
section
/-! SUPPORT. The model's own tests: the checks of WellFormed refuse an ill-formed term; every constructor's word, written
out from its encoding, decodes to it; vectors of 95_test_vectors.md; and for each obligation with hypotheses a state and
operands that meet them. -/

namespace Sys2Proof.Tests

open Sys2Proof Sys2Proof.Machine

/-! ### Ill-formed terms are refused -/

/-- A map without `add`. -/
def noAdd : OpcodeMap := defaultOpcodeMap.set 0 .unknown

/-- A map that selects `add` twice. -/
def twoAdds : OpcodeMap := defaultOpcodeMap.set 18 .add

theorem test_wf_unknown_of_an_admitted_opcode : Instr.wf defaultOpcodeMap (.unknown 0 1 2) = false := by decide
theorem test_wf_unknown_of_a_pack_selector : Instr.wf defaultOpcodeMap (.unknown 63 1 2) = false := by decide
theorem test_wf_instruction_without_opcode : Instr.wf noAdd (.add 1 2) = false := by decide
theorem test_wf_accepts : Instr.wf defaultOpcodeMap (.unknown 63 2 0) = true
    ∧ Instr.wf defaultOpcodeMap (.unknown 18 0 0) = true ∧ Instr.wf defaultOpcodeMap (.movei 31 31 0) = true := by decide
theorem test_noRepeats : OpcodeMap.noRepeats twoAdds = false ∧ OpcodeMap.noRepeats defaultOpcodeMap = true := by decide

theorem test_config_default_admitted : defaultConfig.wf = true := by decide
/-- One parameter off each constraint of 00_scope R5. -/
theorem test_config_misaligned_register :
    ({ defaultConfig with remainAddr := 0x00F0211E } : Config).wf = false := by decide
theorem test_config_misaligned_window :
    ({ defaultConfig with gpu := { defaultConfig.gpu with iramBase := 0x00F03002 } } : Config).wf = false := by decide
theorem test_config_register_beyond_memory :
    ({ defaultConfig with remainAddr := 0x00F1D000 } : Config).wf = false := by decide
theorem test_config_window_beyond_memory :
    ({ defaultConfig with memSize := 0x00F1CFFC } : Config).wf = false := by decide
theorem test_config_registers_overlap :
    ({ defaultConfig with hiDataAddr := 0x00F02100 } : Config).wf = false := by decide
theorem test_config_register_in_window :
    ({ defaultConfig with remainAddr := 0x00F03000 } : Config).wf = false := by decide
theorem test_config_memory_too_large :
    ({ defaultConfig with memSize := 0x80000004 } : Config).wf = false := by decide
theorem test_config_memory_not_longs :
    ({ defaultConfig with memSize := 0x00F1D002 } : Config).wf = false := by decide
/-- A step under refused parameters is refused (log entry 5). -/
theorem test_step_refuses_bad_parameters :
    step { State.reset with cfg := { defaultConfig with memSize := 2 } } = .refused .badConfiguration := by rfl

/-! ### Decoding: the bits of each row of the opcode table, with `A` = 01011 and `B` = 10110 -/

theorem test_decode_add : decodeTableWord 16 0b000000_01011_10110 = some (.add 11 22) := by decide
theorem test_decode_addc : decodeTableWord 16 0b000001_01011_10110 = some (.addc 11 22) := by decide
theorem test_decode_addq : decodeTableWord 16 0b000010_01011_10110 = some (.addq 11 22) := by decide
theorem test_decode_addqt : decodeTableWord 16 0b000011_01011_10110 = some (.addqt 11 22) := by decide
theorem test_decode_sub : decodeTableWord 16 0b000100_01011_10110 = some (.sub 11 22) := by decide
theorem test_decode_subc : decodeTableWord 16 0b000101_01011_10110 = some (.subc 11 22) := by decide
theorem test_decode_subq : decodeTableWord 16 0b000110_01011_10110 = some (.subq 11 22) := by decide
theorem test_decode_subqt : decodeTableWord 16 0b000111_01011_10110 = some (.subqt 11 22) := by decide
theorem test_decode_neg : decodeTableWord 16 0b001000_01011_10110 = some (.neg 11 22) := by decide
theorem test_decode_and : decodeTableWord 16 0b001001_01011_10110 = some (.and 11 22) := by decide
theorem test_decode_or : decodeTableWord 16 0b001010_01011_10110 = some (.or 11 22) := by decide
theorem test_decode_xor : decodeTableWord 16 0b001011_01011_10110 = some (.xor 11 22) := by decide
theorem test_decode_not : decodeTableWord 16 0b001100_01011_10110 = some (.not 11 22) := by decide
theorem test_decode_btst : decodeTableWord 16 0b001101_01011_10110 = some (.btst 11 22) := by decide
theorem test_decode_bset : decodeTableWord 16 0b001110_01011_10110 = some (.bset 11 22) := by decide
theorem test_decode_bclr : decodeTableWord 16 0b001111_01011_10110 = some (.bclr 11 22) := by decide
theorem test_decode_mult : decodeTableWord 16 0b010000_01011_10110 = some (.mult 11 22) := by decide
theorem test_decode_imult : decodeTableWord 16 0b010001_01011_10110 = some (.imult 11 22) := by decide
theorem test_decode_div : decodeTableWord 16 0b010101_01011_10110 = some (.div 11 22) := by decide
theorem test_decode_abs : decodeTableWord 16 0b010110_01011_10110 = some (.abs 11 22) := by decide
theorem test_decode_sh : decodeTableWord 16 0b010111_01011_10110 = some (.sh 11 22) := by decide
theorem test_decode_shlq : decodeTableWord 16 0b011000_01011_10110 = some (.shlq 11 22) := by decide
theorem test_decode_shrq : decodeTableWord 16 0b011001_01011_10110 = some (.shrq 11 22) := by decide
theorem test_decode_sha : decodeTableWord 16 0b011010_01011_10110 = some (.sha 11 22) := by decide
theorem test_decode_sharq : decodeTableWord 16 0b011011_01011_10110 = some (.sharq 11 22) := by decide
theorem test_decode_ror : decodeTableWord 16 0b011100_01011_10110 = some (.ror 11 22) := by decide
theorem test_decode_rorq : decodeTableWord 16 0b011101_01011_10110 = some (.rorq 11 22) := by decide
theorem test_decode_cmp : decodeTableWord 16 0b011110_01011_10110 = some (.cmp 11 22) := by decide
theorem test_decode_cmpq : decodeTableWord 16 0b011111_01011_10110 = some (.cmpq 11 22) := by decide
theorem test_decode_sat8 : decodeTableWord 16 0b100000_01011_10110 = some (.sat8 11 22) := by decide
theorem test_decode_sat16 : decodeTableWord 16 0b100001_01011_10110 = some (.sat16 11 22) := by decide
theorem test_decode_move : decodeTableWord 16 0b100010_01011_10110 = some (.move 11 22) := by decide
theorem test_decode_moveq : decodeTableWord 16 0b100011_01011_10110 = some (.moveq 11 22) := by decide
theorem test_decode_moveta : decodeTableWord 16 0b100100_01011_10110 = some (.moveta 11 22) := by decide
theorem test_decode_movefa : decodeTableWord 16 0b100101_01011_10110 = some (.movefa 11 22) := by decide
/-- The high word comes first (30_encoding R104). -/
theorem test_decode_movei :
    decodeTableWord 48 (0x567812340000 + 0b100110_01011_10110) = some (.movei 11 22 0x12345678) := by decide
theorem test_decode_loadb : decodeTableWord 16 0b100111_01011_10110 = some (.loadb 11 22) := by decide
theorem test_decode_loadw : decodeTableWord 16 0b101000_01011_10110 = some (.loadw 11 22) := by decide
theorem test_decode_load : decodeTableWord 16 0b101001_01011_10110 = some (.load 11 22) := by decide
theorem test_decode_loadR14n : decodeTableWord 16 0b101011_01011_10110 = some (.loadR14n 11 22) := by decide
theorem test_decode_loadR15n : decodeTableWord 16 0b101100_01011_10110 = some (.loadR15n 11 22) := by decide
theorem test_decode_storeb : decodeTableWord 16 0b101101_01011_10110 = some (.storeb 11 22) := by decide
theorem test_decode_storew : decodeTableWord 16 0b101110_01011_10110 = some (.storew 11 22) := by decide
theorem test_decode_store : decodeTableWord 16 0b101111_01011_10110 = some (.store 11 22) := by decide
theorem test_decode_storeR14n : decodeTableWord 16 0b110001_01011_10110 = some (.storeR14n 11 22) := by decide
theorem test_decode_storeR15n : decodeTableWord 16 0b110010_01011_10110 = some (.storeR15n 11 22) := by decide
theorem test_decode_movePc : decodeTableWord 16 0b110011_01011_10110 = some (.movePc 11 22) := by decide
theorem test_decode_jump : decodeTableWord 16 0b110100_01011_10110 = some (.jump 11 22) := by decide
theorem test_decode_jr : decodeTableWord 16 0b110101_01011_10110 = some (.jr 11 22) := by decide
theorem test_decode_nop : decodeTableWord 16 0b111001_01011_10110 = some (.nop 11 22) := by decide
theorem test_decode_loadR14rm : decodeTableWord 16 0b111010_01011_10110 = some (.loadR14rm 11 22) := by decide
theorem test_decode_loadR15rm : decodeTableWord 16 0b111011_01011_10110 = some (.loadR15rm 11 22) := by decide
theorem test_decode_storeR14rm : decodeTableWord 16 0b111100_01011_10110 = some (.storeR14rm 11 22) := by decide
theorem test_decode_storeR15rm : decodeTableWord 16 0b111101_01011_10110 = some (.storeR15rm 11 22) := by decide
theorem test_decode_sat24 : decodeTableWord 16 0b111110_01011_10110 = some (.sat24 11 22) := by decide
theorem test_decode_pack : decodeTableWord 16 0b111111_00000_10110 = some (.pack 22) := by decide
theorem test_decode_unpack : decodeTableWord 16 0b111111_00001_10110 = some (.unpack 22) := by decide
theorem test_decode_unknown :
    decodeTableWord 16 0b010010_01011_10110 = some (.unknown 18 11 22)
    ∧ decodeTableWord 16 0b111000_01011_10110 = some (.unknown 56 11 22)
    ∧ decodeTableWord 16 0b111111_00010_10110 = some (.unknown 63 2 22) := by decide
theorem test_decode_truncated :
    decode defaultOpcodeMap .highFirst [0x98] = .error .truncatedWord
    ∧ decode defaultOpcodeMap .highFirst [0x98, 0x01, 0, 0, 0] = .error .truncatedImmediate := by decide
/-- The other word order of 30_encoding R104. -/
theorem test_decode_low_first :
    decode defaultOpcodeMap .lowFirst [0x98, 0x01, 0x56, 0x78, 0x12, 0x34] = .ok (.movei 0 1 0x12345678, []) := by decide

/-! ### Vectors of 95_test_vectors.md -/

/-- A state after reset whose `pc` has moved past an instruction at 0x4000, with the bytes and registers given. -/
def machine (mem : Memory) (rs : List (Bool × Reg × Long)) : State :=
  rs.foldl (fun s p => s.setReg p.1 p.2.1 p.2.2) { State.reset with pc := 0x4002, mem := mem }

/-- Four bytes of memory. -/
def longAt (a : Nat) (v : Long) : Memory := Memory.writeBytes [] a (storeBytes .long v)

/-- A register and the flags that an instruction leaves, or nothing when it does not complete. -/
def regAfter (i : Instr) (s : State) (k : Bool) (r : Reg) : Option (Long × Bool × Bool × Bool) :=
  match exec i s with
  | .next t => some (t.reg k r, t.z, t.n, t.c)
  | .fault _ => none
  | .refused _ => none

/-- A long of memory that an instruction leaves, with the reports. -/
def memAfter (i : Instr) (s : State) (a : Long) : Option (Option Long × List Report) :=
  match exec i s with
  | .next t => some (t.rawLong? a, t.reports)
  | .fault _ => none
  | .refused _ => none

theorem test_add_V2 :
    regAfter (.add 2 2) (machine [] [(false, 2, 0x80000000)]) false 2
      = some (0x00000000, true, false, true) := by decide
theorem test_addq_V4 :
    regAfter (.addq 0 3) (machine [] [(false, 3, 0xFFFFFFE0)]) false 3
      = some (0x00000000, true, false, true) := by decide
theorem test_addqt_V5 :
    regAfter (.addqt 0 4) { machine [] [(false, 4, 0xFFFFFFFF)] with z := true, n := true, c := true } false 4
      = some (0x0000001F, true, true, true) := by decide
theorem test_subq_V7 :
    regAfter (.subq 0 5) (machine [] [(false, 5, 0x0000001F)]) false 5
      = some (0xFFFFFFFF, false, true, true) := by decide
theorem test_subqt_V8 :
    regAfter (.subqt 0 6) (machine [] [(false, 6, 0x00000000)]) false 6
      = some (0xFFFFFFE0, false, false, false) := by decide
theorem test_addc_V9 :
    regAfter (.addc 1 2) { machine [] [(false, 1, 0xFFFFFFFF), (false, 2, 0xFFFFFFFF)] with c := true } false 2
      = some (0xFFFFFFFF, false, true, true) := by decide
theorem test_addc_V10 :
    regAfter (.addc 1 2) { machine [] [(false, 1, 0x00000001), (false, 2, 0x00000002)] with z := true, n := true } false 2
      = some (0x00000003, false, false, false) := by decide
theorem test_sub_V11 :
    regAfter (.sub 1 2) (machine [] [(false, 1, 0x00000001), (false, 2, 0x80000000)]) false 2
      = some (0x7FFFFFFF, false, false, false) := by decide
theorem test_sub_V12 :
    regAfter (.sub 1 2) (machine [] [(false, 1, 0x00000001), (false, 2, 0x00000000)]) false 2
      = some (0xFFFFFFFF, false, true, true) := by decide
theorem test_subc_V14 :
    regAfter (.subc 1 2) { machine [] [(false, 1, 0xFFFFFFFF), (false, 2, 0x00000000)] with c := true } false 2
      = some (0x00000000, true, false, true) := by decide
theorem test_neg_V15 :
    regAfter (.neg 0 5) (machine [] [(false, 5, 0x00000000)]) false 5
      = some (0x00000000, true, false, false) := by decide
theorem test_neg_V16 :
    regAfter (.neg 0 5) (machine [] [(false, 5, 0x80000000)]) false 5
      = some (0x80000000, false, true, true) := by decide
theorem test_abs_V17 :
    regAfter (.abs 0 5) (machine [] [(false, 5, 0x80000000)]) false 5
      = some (0x80000000, false, true, true) := by decide
theorem test_abs_V18 :
    regAfter (.abs 0 5) (machine [] [(false, 5, 0x7FFFFFFF)]) false 5
      = some (0x7FFFFFFF, false, false, false) := by decide
theorem test_cmp_V19 :
    regAfter (.cmp 1 2) (machine [] [(false, 1, 0x00000001), (false, 2, 0x80000000)]) false 2
      = some (0x80000000, false, false, false) := by decide
theorem test_cmp_V20 :
    regAfter (.cmp 1 2) (machine [] [(false, 1, 0xFFFFFFFF), (false, 2, 0x00000000)]) false 2
      = some (0x00000000, false, false, true) := by decide
theorem test_mult_V28 :
    regAfter (.mult 1 2) (machine [] [(false, 1, 0x0000FFFF), (false, 2, 0x0000FFFF)]) false 2
      = some (0xFFFE0001, false, true, false) := by decide
theorem test_mult_V29 :
    regAfter (.mult 1 2) { machine [] [(false, 1, 0xFFFF0000), (false, 2, 0x1234FFFF)] with c := true } false 2
      = some (0x00000000, true, false, true) := by decide
theorem test_imult_V30 :
    regAfter (.imult 1 2) (machine [] [(false, 1, 0x00008000), (false, 2, 0x00008000)]) false 2
      = some (0x40000000, false, false, false) := by decide
theorem test_imult_V32 :
    regAfter (.imult 1 2) (machine [] [(false, 1, 0xABCD0002), (false, 2, 0x0001FFFF)]) false 2
      = some (0xFFFFFFFE, false, true, false) := by decide
theorem test_sat8_V33 :
    regAfter (.sat8 0 5) { machine [] [(false, 5, 0xFFFFFFFF)] with c := true } false 5
      = some (0x00000000, true, false, true) := by decide
theorem test_sat8_V36 :
    regAfter (.sat8 0 5) (machine [] [(false, 5, 0x80000000)]) false 5
      = some (0x00000000, true, false, false) := by decide
theorem test_sat16_V37 :
    regAfter (.sat16 0 5) (machine [] [(false, 5, 0x00010000)]) false 5
      = some (0x0000FFFF, false, false, false) := by decide
theorem test_sat16_V38 :
    regAfter (.sat16 0 5) (machine [] [(false, 5, 0x0000FFFF)]) false 5
      = some (0x0000FFFF, false, false, false) := by decide
theorem test_sat24_V39 :
    regAfter (.sat24 0 5) (machine [] [(false, 5, 0x01000000)]) false 5
      = some (0x00FFFFFF, false, false, false) := by decide
theorem test_sat24_V41 :
    regAfter (.sat24 0 5) (machine [] [(false, 5, 0x00ABCDEF)]) false 5
      = some (0x00ABCDEF, false, false, false) := by decide
theorem test_cmpq_V42 :
    regAfter (.cmpq 31 3) (machine [] [(false, 3, 0xFFFFFFFF)]) false 3
      = some (0xFFFFFFFF, true, false, false) := by decide
theorem test_cmpq_V43 :
    regAfter (.cmpq 31 3) (machine [] [(false, 3, 0x00000005)]) false 3
      = some (0x00000005, false, false, true) := by decide
theorem test_and_V46 :
    regAfter (.and 2 2) { machine [] [(false, 2, 0x80000000)] with c := true } false 2
      = some (0x80000000, false, true, true) := by decide
theorem test_and_V47 :
    regAfter (.and 1 2) (machine [] [(false, 1, 0x0000FFFF), (false, 2, 0xFFFF0000)]) false 2
      = some (0x00000000, true, false, false) := by decide
theorem test_or_V48 :
    regAfter (.or 1 2) (machine [] [(false, 1, 0x00000000), (false, 2, 0x00000000)]) false 2
      = some (0x00000000, true, false, false) := by decide
theorem test_xor_V49 :
    regAfter (.xor 2 2) (machine [] [(false, 2, 0xDEADBEEF)]) false 2
      = some (0x00000000, true, false, false) := by decide
theorem test_not_V51 :
    regAfter (.not 31 5) (machine [] [(false, 5, 0x0F0F0F0F)]) false 5
      = some (0xF0F0F0F0, false, true, false) := by decide
theorem test_btst_V52 :
    regAfter (.btst 0 1) { machine [] [(false, 1, 0xFFFFFFFE)] with n := true, c := true } false 1
      = some (0xFFFFFFFE, true, true, true) := by decide
theorem test_btst_V53 :
    regAfter (.btst 31 1) { machine [] [(false, 1, 0x80000000)] with z := true } false 1
      = some (0x80000000, false, false, false) := by decide
theorem test_bset_V54 :
    regAfter (.bset 31 1) (machine [] [(false, 1, 0x00000000)]) false 1
      = some (0x80000000, false, true, false) := by decide
theorem test_bclr_V56 :
    regAfter (.bclr 31 1) (machine [] [(false, 1, 0x80000000)]) false 1
      = some (0x00000000, true, false, false) := by decide
theorem test_bclr_V57 :
    regAfter (.bclr 4 1) (machine [] [(false, 1, 0xFFFFFFFF)]) false 1
      = some (0xFFFFFFEF, false, true, false) := by decide
theorem test_sh_V60 :
    regAfter (.sh 1 2) (machine [] [(false, 1, 0xFFFFFFE0), (false, 2, 0x80000001)]) false 2
      = some (0x00000000, true, false, true) := by decide
theorem test_sh_V62 :
    regAfter (.sh 1 2) (machine [] [(false, 1, 0xFFFFFFDF), (false, 2, 0x40000002)]) false 2
      = some (0x40000002, false, false, false) := by decide
theorem test_sha_V68 :
    regAfter (.sha 1 2) (machine [] [(false, 1, 0x00000020), (false, 2, 0x80000000)]) false 2
      = some (0xFFFFFFFF, false, true, false) := by decide
theorem test_sha_V70 :
    regAfter (.sha 1 2) (machine [] [(false, 1, 0xFFFFFFFF), (false, 2, 0xC0000000)]) false 2
      = some (0x80000000, false, true, true) := by decide
theorem test_shlq_V73 :
    regAfter (.shlq 0 3) (machine [] [(false, 3, 0xFFFFFFFF)]) false 3
      = some (0x00000000, true, false, true) := by decide
theorem test_shlq_V75 :
    regAfter (.shlq 16 3) (machine [] [(false, 3, 0x0001FFFF)]) false 3
      = some (0xFFFF0000, false, true, false) := by decide
theorem test_shrq_V76 :
    regAfter (.shrq 0 3) (machine [] [(false, 3, 0xFFFFFFFF)]) false 3
      = some (0x00000000, true, false, true) := by decide
theorem test_shrq_V78 :
    regAfter (.shrq 31 3) (machine [] [(false, 3, 0x80000000)]) false 3
      = some (0x00000001, false, false, false) := by decide
theorem test_sharq_V79 :
    regAfter (.sharq 0 3) (machine [] [(false, 3, 0x80000000)]) false 3
      = some (0xFFFFFFFF, false, true, false) := by decide
theorem test_sharq_V81 :
    regAfter (.sharq 1 3) (machine [] [(false, 3, 0x80000000)]) false 3
      = some (0xC0000000, false, true, false) := by decide
theorem test_ror_V83 :
    regAfter (.ror 1 2) (machine [] [(false, 1, 0x00000020), (false, 2, 0x80000001)]) false 2
      = some (0x80000001, false, true, true) := by decide
theorem test_ror_V85 :
    regAfter (.ror 1 2) (machine [] [(false, 1, 0xFFFFFFF8), (false, 2, 0x12345678)]) false 2
      = some (0x34567812, false, false, false) := by decide
theorem test_rorq_V87 :
    regAfter (.rorq 0 3) (machine [] [(false, 3, 0x12345678)]) false 3
      = some (0x12345678, false, false, false) := by decide
theorem test_rorq_V89 :
    regAfter (.rorq 31 3) (machine [] [(false, 3, 0x80000000)]) false 3
      = some (0x00000001, false, false, true) := by decide
theorem test_move_V118 :
    regAfter (.move 2 2) { machine [] [(false, 2, 0x80000000)] with z := true, c := true } false 2
      = some (0x80000000, true, false, true) := by decide
theorem test_moveq_V120 :
    regAfter (.moveq 31 1) (machine [] []) false 1
      = some (0x0000001F, false, false, false) := by decide
theorem test_movePc_V121 :
    regAfter (.movePc 0 0) (machine [] []) false 0
      = some (0x00004000, false, false, false) := by decide
theorem test_moveta_V123 :
    regAfter (.moveta 1 2) { machine [] [(true, 1, 0x00000055), (true, 2, 0x00000066), (false, 2, 0x00000077)] with bank := true } false 2
      = some (0x00000055, false, false, false) := by decide
theorem test_movefa_V124 :
    regAfter (.movefa 1 2) (machine [] [(false, 1, 0x00000055), (false, 2, 0x00000066), (true, 1, 0x00000099)]) false 2
      = some (0x00000099, false, false, false) := by decide
theorem test_pack_V126 :
    regAfter (.pack 3) { machine [] [(false, 3, 0xFFFFFFFF)] with z := true, n := true, c := true } false 3
      = some (0x0000FFFF, true, true, true) := by decide
theorem test_unpack_V129 :
    regAfter (.unpack 3) (machine [] [(false, 3, 0xFFFFFFFF)]) false 3
      = some (0x03C1E0FF, false, false, false) := by decide

/-- V21, V24: `div` in GPU mode, by zero and with an even quotient; the flags register holds 0. -/
theorem test_div_V21 :
    memAfter (.div 1 2) (machine (longAt 0x00F02100 0) [(false, 2, 0x12345678)]) 0x00F0211C = some (some 0, []) := by
  decide
theorem test_div_V24 :
    memAfter (.div 1 2) (machine (longAt 0x00F02100 0) [(false, 1, 10), (false, 2, 3)]) 0x00F0211C
      = some (some 0xFFFFFFF9, []) := by decide
theorem test_loadb_V90 :
    regAfter (.loadb 1 2) (machine (longAt 0x5000 0x11223344) [(false, 1, 0x5003)]) false 2
      = some (0x44, false, false, false) := by decide
theorem test_loadw_V95 :
    regAfter (.loadw 1 2) (machine (longAt 0x5000 0x11223344) [(false, 1, 0x5003)]) false 2
      = some (0x3344, false, false, false) := by decide
theorem test_load_V98 :
    regAfter (.load 1 2) (machine (longAt 0x5000 0x11223344) [(false, 1, 0x5003)]) false 2
      = some (0x11223344, false, false, false) := by decide
theorem test_load_V100 :
    regAfter (.load 1 2) (machine [] [(false, 1, 0x00F1D002)]) false 2
      = some (0xFFFFFFFF, false, false, false) := by decide
theorem test_loadR14n_V103 :
    regAfter (.loadR14n 0 2) (machine (longAt 0x5080 0x80808080) [(false, 14, 0x5000)]) false 2
      = some (0x80808080, false, false, false) := by decide
theorem test_loadR15n_V105 :
    regAfter (.loadR15n 31 2) (machine (longAt 0 0x0BADF00D) [(false, 15, 0xFFFFFF84)]) false 2
      = some (0x0BADF00D, false, false, false) := by decide
theorem test_loadR14rm_V106 :
    regAfter (.loadR14rm 3 2) (machine (longAt 0x5004 0x44444444) [(false, 14, 0x5008), (false, 3, 0xFFFFFFFC)]) false 2
      = some (0x44444444, false, false, false) := by decide
theorem test_loadR15rm_V107 :
    regAfter (.loadR15rm 15 2) (machine (longAt 0x5000 0x55555555) [(false, 15, 0x2800)]) false 2
      = some (0x55555555, false, false, false) := by decide

/-- The memory at power-on with a long of zeros at 0x5000 and at 0x5010, and the GPU's enable bit set. -/
def ram : Memory :=
  [((0x5000 : Long), (0 : Long)), (0x5010, 0), (0x00F02114, 1)].foldl Memory.withLong (powerOnMemory defaultConfig)

theorem test_storeb_V108 :
    memAfter (.storeb 1 2) (machine ram [(false, 1, 0x5001), (false, 2, 0xAABBCCDD)]) 0x5000
      = some (some 0x00DD0000, []) := by decide
theorem test_storew_V109 :
    memAfter (.storew 1 2) (machine ram [(false, 1, 0x5003), (false, 2, 0xAABBCCDD)]) 0x5000
      = some (some 0x0000CCDD, [.alignmentWarning 0x5003 2]) := by decide
theorem test_store_V110 :
    memAfter (.store 1 2) (machine ram [(false, 1, 0x5002), (false, 2, 0xAABBCCDD)]) 0x5000
      = some (some 0xAABBCCDD, [.alignmentWarning 0x5002 4]) := by decide
theorem test_store_V111 :
    memAfter (.store 1 2) (machine ram [(false, 1, 0x00F1D000), (false, 2, 0xAABBCCDD)]) 0x5000
      = some (some 0, [.outOfBounds 0x00F1D000 4]) := by decide
theorem test_storeR14n_V114 :
    memAfter (.storeR14n 0 2) (machine ram [(false, 14, 0x5000), (false, 2, 0xBEEF)]) 0x5080
      = some (some 0xBEEF, []) := by decide
theorem test_storeR15n_V115 :
    memAfter (.storeR15n 1 2) (machine ram [(false, 15, 0x5000), (false, 2, 0xBEEF)]) 0x5004
      = some (some 0xBEEF, []) := by decide
theorem test_storeR14rm_V116 :
    memAfter (.storeR14rm 3 2) (machine ram [(false, 14, 0x5000), (false, 3, 0x10), (false, 2, 0xBEEF)]) 0x5010
      = some (some 0xBEEF, []) := by decide
theorem test_storeR15rm_V117 :
    memAfter (.storeR15rm 3 2) (machine ram [(false, 15, 0x5000), (false, 3, 0x11), (false, 2, 0xBEEF)]) 0x5010
      = some (some 0xBEEF, [.alignmentWarning 0x5011 4]) := by decide
/-- The window of the current mode alone, its last byte and the byte after it: 20_memory R74, R80. -/
theorem test_window_of_the_mode :
    (State.reset.noteRestricted .byte 0x00F03FFF).reports = [.restrictedAccess 0x00F03FFF 1]
    ∧ (State.reset.noteRestricted .byte 0x00F04000).reports = []
    ∧ (State.reset.noteRestricted .byte 0x00F1B000).reports = []
    ∧ (State.noteRestricted { State.reset with mode := .dsp } .word 0x00F1CFFE).reports = [.restrictedAccess 0x00F1CFFE 2]
    ∧ (State.noteRestricted { State.reset with mode := .dsp } .word 0x00F03000).reports = [] := by decide
/-- W1: a store that sets bit 14 of the flags register switches the bank. -/
theorem test_store_W1 :
    (match exec (.store 1 2) (machine ram [(false, 1, 0x00F02100), (false, 2, 0x4000)]) with
      | .next t => t.bank
      | .fault _ => false
      | .refused _ => false) = true := by decide
/-- The delay slot a branch leaves: 45_control R226, R227; the jump's target loses bit 0. -/
def slotAfter (i : Instr) (s : State) : Option DelaySlot :=
  match exec i s with
  | .next t => some t.ds
  | .fault _ => none
  | .refused _ => none

theorem test_jump_taken :
    slotAfter (.jump 1 0) (machine [] [(false, 1, 0x6001)]) = some { target := 0x6000, pending := true } := by decide
theorem test_jump_not_taken :
    slotAfter (.jump 1 2) (machine [] [(false, 1, 0x6001)]) = some { target := 0, pending := false } := by decide
/-- `jr -3` at 0x4000: 0x4002 - 6. -/
theorem test_jr_backward :
    slotAfter (.jr 29 1) (machine [] []) = some { target := 0x3FFC, pending := true } := by decide
theorem test_movei : regAfter (.movei 0 1 0x12345678) (machine [] []) false 1
    = some (0x12345678, false, false, false) := by decide
theorem test_nop : exec (.nop 31 31) (machine [] []) = .next (machine [] []) := by rfl
theorem test_unknown : memAfter (.unknown 18 1 2) (machine ram []) 0x5000
    = some (some 0, [.unknownOpcode 0x4822 0x4000]) := by decide

/-- The first step after a program was placed runs it. -/
theorem test_step_runs_the_placed_word :
    (match step (State.reset.withFetchWord 48 0x567812349801) with
      | .next t => (t.reg false 1, t.pc)
      | .fault _ => (0, 0)
      | .refused _ => (0, 0)) = (0x12345678, 6) := by decide
/-- Does a machine go on? -/
def goesOn (o : Host.Outcome State Fault Refusal) : Bool :=
  match o with
  | .next _ => true
  | .fault _ => false
  | .refused _ => false
/-- A store and a `div` run as the first instruction after reset: the write hook finds the flags register. -/
theorem test_store_and_div_run_first :
    goesOn (step (State.reset.withFetchWord 16 0xBC22)) = true
    ∧ goesOn (step (State.reset.withFetchWord 16 0x5422)) = true := by decide
theorem test_step_after_reset_meets_no_program : step State.reset = .fault (.unwrittenByte 0) := by rfl

/-! ### The canonical form of memory -/

theorem test_memory_wf : ram.wf := by decide
theorem test_memory_same_writes_same_data :
    Memory.writeBytes (longAt 8 1) 4 (storeBytes .long 2) = Memory.writeBytes (longAt 4 2) 8 (storeBytes .long 1) := by
  decide

/-! ### For each obligation with hypotheses, a state and operands that meet them -/

/-- An idle machine with `add r1,r2` at 0x4000 and a pending slot to the last word of memory. -/
def idle : State :=
  { machine (Memory.writeBytes ram 0x4000 [0x00, 0x22]) [(false, 1, 5), (false, 2, 7)] with
    pc := 0x4000, loadAddress := 0x4000, programSize := 2, ds := { target := 0x00F1CFFE, pending := true } }

/-- The same machine running. -/
def running : State := { idle with runState := .running }

theorem witness_ReencodingRestoresTheWord : defaultOpcodeMap.noRepeats = true := by decide
theorem witness_DecodingInvertsEncoding :
    Instr.wf defaultOpcodeMap (.movei 31 0 0xFFFFFFFF) = true ∧ Instr.wf defaultOpcodeMap (.unknown 63 31 31) = true := by
  decide
theorem witness_LengthIsSixForMoveiElseTwo :
    defaultOpcodeMap.select (opField ((0x00 : Byte) ++ (0x22 : Byte))) ≠ .movei
    ∧ defaultOpcodeMap.select (opField ((0x98 : Byte) ++ (0x01 : Byte))) = .movei
    ∧ 4 ≤ ([0, 0, 0, 0] : List Byte).length ∧ ([0, 0, 0] : List Byte).length < 4 := by decide
/-- The premises of a step that runs a decoded instruction. -/
abbrev Runs (s : State) (bs : List Byte) (i : Instr) : Prop :=
  s.cfg.wf = true ∧ s.pc.getLsbD 0 = false ∧ s.pc.toNat + bs.length ≤ s.cfg.memSize
  ∧ (∀ k : Nat, ∀ h : k < bs.length, s.mem.read (s.pc.toNat + k) = some bs[k])
  ∧ decode s.cfg.opcodeMap s.cfg.moveiWordOrder bs = .ok (i, [])
theorem witness_StepRunsTheDecodedInstruction :
    Runs idle [0x00, 0x22] (.add 1 2) ∧ idle.runState = .idle
    ∧ Runs running [0x00, 0x22] (.add 1 2) ∧ running.runState = .running ∧ running.stopRequested = false
    ∧ running.pc ∉ running.breakpoints ∧ running.pc.toNat < running.loadAddress.toNat + running.programSize := by
  decide
theorem witness_FetchBeyondMemoryIsReportedTwice :
    (∀ s ∈ [{ State.reset with pc := 0x00F1D000 }, { State.reset with pc := 0x80000000 }],
      s.cfg.wf = true ∧ s.runState = .idle ∧ s.pc.getLsbD 0 = false ∧ s.ds.pending = false
      ∧ (s.pc.getLsbD 31 = true ∨ s.cfg.memSize < s.pc.toNat + 2) ∧ s.cfg.opcodeMap.select 63 = .packUnpack) := by
  decide
/-- `movei` in the last long of memory. -/
def atEnd : State := { machine (longAt 0x00F1CFFC 0x98011234) [] with pc := 0x00F1CFFC }
theorem witness_ExtensionWordBeyondMemoryIsAllOnes :
    atEnd.cfg.wf = true ∧ atEnd.runState = .idle ∧ atEnd.ds.pending = false
    ∧ atEnd.pc.toNat + 4 = atEnd.cfg.memSize
    ∧ atEnd.mem.read atEnd.pc.toNat = some 0x98 ∧ atEnd.mem.read (atEnd.pc.toNat + 1) = some 0x01
    ∧ atEnd.mem.read (atEnd.pc.toNat + 2) = some 0x12 ∧ atEnd.mem.read (atEnd.pc.toNat + 3) = some 0x34
    ∧ atEnd.cfg.opcodeMap.select (opField ((0x98 : Byte) ++ (0x01 : Byte))) = .movei
    ∧ bField ((0x98 : Byte) ++ (0x01 : Byte)) = 1 := by decide
theorem witness_SkipMovesOnlyThePc :
    idle.cfg.wf = true ∧ idle.runState = .idle ∧ idle.pc.getLsbD 0 = false
    ∧ idle.pc.toNat + 2 ≤ idle.cfg.memSize ∧ idle.mem.read idle.pc.toNat = some 0x00
    ∧ idle.mem.read (idle.pc.toNat + 1) = some 0x22
    ∧ ({ idle with pc := 0x00F1D000 } : State).cfg.memSize < (0x00F1D000 : Long).toNat + 2
    ∧ ({ idle with pc := 0x00F1D000 } : State).pc.getLsbD 0 = false := by decide

/-- What `add r1,r2` leaves of the idle machine. -/
def added : State := idle.addInto 2 (idle.x 1) false
theorem witness_exec_answers : exec (.add 1 2) idle = .next added := by rfl
theorem witness_CommitFollowsEveryNonBranch :
    (∃ t, exec (.jump 1 0) idle = .next t) ∧ (∃ t, exec (.add 1 2) State.reset = .next t ∧ t.ds.pending = false)
    ∧ added.ds.pending = true ∧ added.ds.target.getLsbD 31 = false
    ∧ added.ds.target.toNat + 2 = added.cfg.memSize := ⟨⟨_, rfl⟩, ⟨_, rfl, by decide⟩, by decide⟩
theorem witness_TargetOutsideMemoryResetsTheCore :
    (∃ t, exec (.nop 0 0) { idle with ds := { target := 0x00F1D000, pending := true } } = .next t
      ∧ t.ds.pending = true ∧ t.cfg.memSize < t.ds.target.toNat + 2)
    ∧ (∃ t, exec (.nop 0 0) { idle with ds := { target := 0x80000000, pending := true } } = .next t
      ∧ t.ds.pending = true ∧ t.ds.target.getLsbD 31 = true) := ⟨⟨_, rfl, by decide⟩, ⟨_, rfl, by decide⟩⟩
theorem idle_mem_wf : idle.mem.wf := by
  have h : idle.mem = ram.writeBytes 0x4000 [0x00, 0x22] := rfl
  rw [h]; exact Memory.writeBytes_wf test_memory_wf _ _
theorem idle_registersHold :
    ∀ r ∈ defaultConfig.registerAddrs, ∀ k, k < 4 → (idle.mem.read (r.toNat + k)).isSome = true := by
  intro r hr k hk
  have h : idle.mem = Memory.writeBytes (Memory.withLong (Memory.withLong (Memory.withLong (powerOnMemory defaultConfig)
      (0x5000, 0)) (0x5010, 0)) (0x00F02114, 1)) 0x4000 [0x00, 0x22] := rfl
  rw [h]
  exact Memory.isSome_writeBytes (Memory.isSome_writeBytes (Memory.isSome_writeBytes (Memory.isSome_writeBytes
    (powerOnMemory_isSome hr hk))))
theorem witness_invariant : idle.Inv ∧ running.Inv :=
  ⟨⟨idle_mem_wf, by decide, idle_registersHold, by decide, by decide, by decide, by decide, by decide, by decide,
      fun _ h => by cases h⟩,
    ⟨idle_mem_wf, by decide, idle_registersHold, by decide, by decide, by decide, by decide, by decide, by decide,
      fun _ h => by cases h⟩⟩
theorem witness_StepKeepsTheInvariant : goesOn (step idle) = true ∧ goesOn (step running) = true := by decide
theorem witness_HostOperationsKeepTheInvariant :
    ∀ op ∈ [HostAction.step, .run, .skip, .setBreakpoint (some 2), .loadBin 0 (some [1, 2]) 0x4000],
      goesOn (hostAct op idle) = true := by decide
/-- A step that switches the bank: W1 with the word in memory. -/
theorem witness_BankFollowsTheFlagsRegister :
    (match step ((machine ram [(false, 1, 0x00F02100), (false, 2, 0x4000)]).withFetchWord 16 0xBC22) with
      | .next t => t.bank
      | .fault _ => false
      | .refused _ => false) = true
    ∧ State.reset.mayWriteMemory (.add 1 2) = false := by decide
theorem witness_StepKeepsWhatTheHostOwns :
    goesOn (step { idle with stopRequested := true }) = true ∧ goesOn (step idle) = true := by decide
theorem witness_PcChangesInFourWays : goesOn (executeNext idle) = true ∧ goesOn (skipNext idle) = true := by decide
theorem witness_OnlyTheNamedRegisterIsWritten :
    (1 : Reg) ≠ (Instr.add 1 2).fieldB ∧ ¬ ∃ a b, Instr.add 1 2 = .moveta a b := by
  refine ⟨by decide, ?_⟩
  rintro ⟨a, b, h⟩
  cases h
theorem witness_OnlyListedInstructionsWriteMemoryOrFlags :
    idle.mayWriteMemory (.add 1 2) = false ∧ (Instr.addqt 0 2).kind = .addqt ∧ (Instr.and 1 2).kind = .and
    ∧ (Instr.btst 1 2).kind = .btst ∧ (∃ t, exec (.addqt 0 2) idle = .next t) ∧ (∃ t, exec (.and 1 2) idle = .next t)
    ∧ ∃ t, exec (.btst 1 2) idle = .next t :=
  ⟨by decide, rfl, rfl, rfl, ⟨_, rfl⟩, ⟨_, rfl⟩, ⟨_, rfl⟩⟩
theorem witness_EveryInstructionCompletesOrMeetsAnUnwrittenByte :
    idle.cfg.wf = true ∧ idle.Inv ∧ idle.loadOperand (.storeb 1 2) = none ∧ idle.loadOperand (.div 1 2) = none :=
  ⟨by decide, witness_invariant.1, rfl, rfl⟩
theorem witness_ReportsNeverChangeAResult :
    idle.unreported
      = State.unreported { idle with reports := [.selfStop], cfg := { idle.cfg with suppressAlignWarn := true } } := rfl
theorem witness_MisalignedAccessIsMasked :
    (0x5000 : Long).toNat % widthBytes .long = 0 ∧ (0x5003 : Long).toNat % widthBytes .long ≠ 0
    ∧ idle.cfg.suppressAlignWarn = false
    ∧ ({ idle with cfg := { idle.cfg with suppressAlignWarn := true } } : State).cfg.suppressAlignWarn = true := by
  decide
theorem witness_OutOfBoundsAccessIsReported :
    (alignDown .long 0x80000001).getLsbD 31 = true
    ∧ idle.cfg.memSize < (alignDown .long 0x00F1D003).toNat + widthBytes .long := by decide
theorem witness_StoredValueIsReadBack :
    goesOn (outcomeOf (idle.memWrite .word 0x5001 7)) = true
    ∧ idle.outOfBounds (alignDown .word 0x5001) (widthBytes .word) = false := by decide
/-- `idle` with an address in r1. -/
def pointing (ea : Long) : State := idle.setReg false 1 ea
theorem witness_LoadsReadBigEndianAndZeroExtend :
    (pointing 0x5002).loadOperand (.loadw 1 2) = some (.word, 0x5002, 2)
    ∧ (pointing 0x5002).outOfBounds (alignDown .word 0x5002) (widthBytes .word) = false
    ∧ ([0, 0] : List Byte).length = widthBytes .word
    ∧ (∀ k : Nat, ∀ h : k < ([0, 0] : List Byte).length,
        (pointing 0x5002).mem.read ((alignDown .word 0x5002).toNat + k) = some ([0, 0] : List Byte)[k]) := by decide
theorem witness_LoadsOutOfBoundsGiveTheSentinel :
    (pointing 0x00F1D000).loadOperand (.loadb 1 2) = some (.byte, 0x00F1D000, 2)
    ∧ (pointing 0x00F1D000).outOfBounds (alignDown .byte 0x00F1D000) (widthBytes .byte) = true := by decide
/-- `load (r1),r2` at 0x4000, where only the first two bytes have been written. -/
theorem witness_UnwrittenBytesFault_load :
    (pointing 0x4000).loadOperand (.load 1 2) = some (.long, 0x4000, 2)
    ∧ (pointing 0x4000).outOfBounds (alignDown .long 0x4000) (widthBytes .long) = false ∧ 2 < widthBytes .long
    ∧ (pointing 0x4000).mem.read ((alignDown .long 0x4000).toNat + 2) = none
    ∧ (∀ j, j < 2 → ((pointing 0x4000).mem.read ((alignDown .long 0x4000).toNat + j)).isSome = true) := by decide
/-- A machine with no byte of memory written, the registers in it among them. -/
def bare : State := { State.reset with mem := [] }
theorem witness_UnwrittenBytesFault_store :
    bare.storeOperand (.store 1 2) = some (.long, 0, 2)
    ∧ bare.outOfBounds (alignDown .long 0) (widthBytes .long) = false
    ∧ ¬ bare.hookReady .long 0 0 := by
  refine ⟨by decide, by decide, ?_⟩
  rintro ⟨⟨f, hf⟩, -⟩
  have h : (bare.stored .long 0 0).rawLong? bare.modeParams.flagsAddr = none := by decide
  rw [h] at hf
  cases hf
theorem witness_UnwrittenBytesFault_div :
    bare.cfg.wf = true ∧ bare.mode = .gpu
    ∧ ¬ bare.hookReady .long bare.cfg.remainAddr (divAdjusted (bare.x 2) (bare.x 1)) := by
  refine ⟨by decide, rfl, ?_⟩
  rintro ⟨⟨f, hf⟩, -⟩
  have h : (bare.stored .long bare.cfg.remainAddr (divAdjusted (bare.x 2) (bare.x 1))).rawLong?
      bare.modeParams.flagsAddr = none := by decide
  rw [h] at hf
  cases hf
/-- The opcode word of `movei` (0x9801) at 0x6000 with five of its six bytes written, idle and running. -/
def cutShort (r : RunState) : State :=
  { State.reset with
    mem := Memory.writeBytes [] 0x6000 [0x98, 0x01, 0, 0, 0], pc := 0x6000, loadAddress := 0x6000, programSize := 6
    runState := r }
/-- The first byte of the opcode word, and the last of the second extension word. -/
theorem witness_UnwrittenBytesFault_fetch :
    State.reset.cfg.wf = true ∧ State.reset.pc.getLsbD 0 = false ∧ State.reset.runState = .idle
    ∧ State.reset.pc.toNat + 2 * (0 / 2) + 2 ≤ State.reset.cfg.memSize
    ∧ State.reset.mem.read (State.reset.pc.toNat + 0) = none
    ∧ (cutShort .idle).cfg.wf = true ∧ (cutShort .idle).pc.getLsbD 0 = false
    ∧ (cutShort .idle).pc.toNat + 2 * (5 / 2) + 2 ≤ (cutShort .idle).cfg.memSize
    ∧ (cutShort .idle).mem.read ((cutShort .idle).pc.toNat + 5) = none
    ∧ (∀ j, j < 5 → ((cutShort .idle).mem.read ((cutShort .idle).pc.toNat + j)).isSome = true)
    ∧ (cutShort .idle).mem.read (cutShort .idle).pc.toNat = some 0x98
    ∧ (cutShort .idle).mem.read ((cutShort .idle).pc.toNat + 1) = some 0x01
    ∧ (cutShort .idle).cfg.opcodeMap.select (opField ((0x98 : Byte) ++ (0x01 : Byte))) = .movei
    ∧ (cutShort .running).stopRequested = false ∧ (cutShort .running).pc ∉ (cutShort .running).breakpoints
    ∧ (cutShort .running).pc.toNat < (cutShort .running).loadAddress.toNat + (cutShort .running).programSize := by
  decide
/-- `store r2,(r1)` to 0x5000, idle; and running with the enable bit set, and with it cleared by the store itself. -/
def storing (r : RunState) (ea : Long) : State := { machine ram [(false, 1, ea)] with runState := r }
theorem witness_StoresWriteBytesAndRunTheHook :
    (storing .idle 0x5000).storeOperand (.store 1 2) = some (.long, 0x5000, 2)
    ∧ (storing .idle 0x5000).outOfBounds (alignDown .long 0x5000) (widthBytes .long) = false
    ∧ (storing .idle 0x5000).hookReady .long 0x5000 0 ∧ (storing .running 0x5000).hookReady .long 0x5000 0
    ∧ ¬ (storing .running 0x5000).stopsItself .long 0x5000 0
    ∧ (storing .running 0x00F02114).hookReady .long 0x00F02114 0
    ∧ (storing .running 0x00F02114).stopsItself .long 0x00F02114 0 := by
  have hf : ∀ r, ((storing r 0x5000).stored .long 0x5000 0).rawLong? (storing r 0x5000).modeParams.flagsAddr = some 0 := by
    intro r; rfl
  have hc : ((storing .running 0x5000).stored .long 0x5000 0).rawLong? (storing .running 0x5000).modeParams.ctrlAddr
      = some 1 := by decide
  have hf' : ((storing .running 0x00F02114).stored .long 0x00F02114 0).rawLong?
      (storing .running 0x00F02114).modeParams.flagsAddr = some 0 := by decide
  have hc' : ((storing .running 0x00F02114).stored .long 0x00F02114 0).rawLong?
      (storing .running 0x00F02114).modeParams.ctrlAddr = some 0 := by decide
  refine ⟨by decide, by decide, ⟨⟨0, hf _⟩, fun h => by cases h⟩, ⟨⟨0, hf _⟩, fun _ => ⟨1, hc⟩⟩, ?_,
    ⟨⟨0, hf'⟩, fun _ => ⟨0, hc'⟩⟩, ⟨rfl, 0, hc', by decide⟩⟩
  rintro ⟨-, c, h, hb⟩
  rw [hc] at h
  cases h
  exact absurd hb (by decide)
/-- A store to the DSP-mode flags register in DSP mode. -/
theorem witness_StoresWriteBytesAndRunTheHook_dsp :
    State.hookReady { State.reset with mode := .dsp } .long 0x00F1A100 0x4000
    ∧ ({ State.reset with mode := .dsp } : State).outOfBounds (alignDown .long 0x00F1A100) (widthBytes .long) = false := by
  refine ⟨⟨⟨0x4000, by decide⟩, fun h => by cases h⟩, by decide⟩
theorem witness_StoresOutOfBoundsAreDropped :
    (storing .idle 0x00F1D000).storeOperand (.storeb 1 2) = some (.byte, 0x00F1D000, 2)
    ∧ (storing .idle 0x00F1D000).outOfBounds (alignDown .byte 0x00F1D000) (widthBytes .byte) = true := by decide
/-- 7 by 3 and 7 by 0, idle and running. -/
theorem witness_DivideInGpuMode :
    idle.cfg.wf = true ∧ idle.mode = .gpu
    ∧ idle.hookReady .long idle.cfg.remainAddr (divAdjusted (idle.x 2) (idle.x 1))
    ∧ running.hookReady .long running.cfg.remainAddr (divAdjusted (running.x 2) (running.x 1))
    ∧ idle.x 1 ≠ 0 ∧ idle.x 3 = 0
    ∧ idle.hookReady .long idle.cfg.remainAddr (divAdjusted (idle.x 2) (idle.x 3)) := by
  refine ⟨by decide, rfl, ⟨⟨0, by decide⟩, fun h => by cases h⟩, ⟨⟨0, by decide⟩, fun _ => ⟨1, by decide⟩⟩, by decide,
    by decide, ⟨⟨0, by decide⟩, fun h => by cases h⟩⟩
theorem witness_DivideInDspMode : ({ idle with mode := .dsp } : State).mode = .dsp := rfl
/-- The bounds of the shift amount. -/
theorem witness_RegisterShifts :
    (0 ≤ (0 : Long).toInt ∧ (0 : Long).toInt ≤ 32) ∧ (0 ≤ (32 : Long).toInt ∧ (32 : Long).toInt ≤ 32)
    ∧ (-32 ≤ (0xFFFFFFFF : Long).toInt ∧ (0xFFFFFFFF : Long).toInt < 0)
    ∧ (-32 ≤ (0xFFFFFFE0 : Long).toInt ∧ (0xFFFFFFE0 : Long).toInt < 0)
    ∧ 32 < (33 : Long).toInt ∧ (0xFFFFFFDF : Long).toInt < -32 := by decide
/-- Both ends of each clause's range of amounts. -/
theorem witness_Rotates :
    (-32 ≤ (0xFFFFFFE0 : Long).toInt ∧ (0xFFFFFFE0 : Long).toInt ≤ 32)
    ∧ (-32 ≤ (32 : Long).toInt ∧ (32 : Long).toInt ≤ 32)
    ∧ 32 < (33 : Long).toInt ∧ (0xFFFFFFDF : Long).toInt < -32 := by decide
theorem witness_BranchesRecordTheirTarget : idle.condMatch 0 = true ∧ idle.condMatch 0x1F = false := by decide
theorem witness_ConditionsMatchExactly : idle.cfg.condTable = defaultCondTable := rfl
theorem witness_ResetWritesOnlyItsList : idle.cfg.wf = true ∧ idle.runState = .idle := by decide
theorem witness_LoadedImageIsCopiedRaw :
    idle.runState ≠ .running ∧ (parseImage 0 [1, 2] 0x00F1CFFE).1.getLsbD 0 = false
    ∧ (parseImage 0 [1, 2] 0x00F1CFFE).1.toNat + (parseImage 0 [1, 2] 0x00F1CFFE).2.length ≤ idle.cfg.memSize := by
  decide
theorem witness_ImageHeaderOverridesTheAddress :
    ([9, 9, 9, 9] : List Byte).length = 4 ∧ (List.replicate 11 (0 : Byte)).length < 12
    ∧ (List.replicate 12 (0 : Byte)).take 4 ≠ storeBytes .long 1 := by decide
theorem witness_RunLoopTestsInOrder :
    running.cfg.wf = true ∧ running.runState = .running
    ∧ ({ running with stopRequested := true } : State).stopRequested = true
    ∧ running.pc ∈ ({ running with breakpoints := [0x4000] } : State).breakpoints
    ∧ running.loadAddress.toNat + ({ running with programSize := 0 } : State).programSize ≤ running.pc.toNat
    ∧ running.pc ∉ running.breakpoints ∧ running.pc.toNat < running.loadAddress.toNat + running.programSize := by
  decide
theorem witness_RunLoopTestsInOrder_executes :
    (match executeNext running with
      | .next t => t.selfStop
      | .fault _ => true
      | .refused _ => true) = false := by decide
/-- A running store that clears the enable bit stops itself. -/
theorem witness_RunLoopTestsInOrder_selfStop :
    (match executeNext ((storing .running 0x00F02114).withFetchWord 16 0xBC22) with
      | .next t => (t.selfStop, t.runState)
      | .fault _ => (false, .noImage)
      | .refused _ => (false, .noImage)) = (true, .running) := by decide
theorem witness_BreakpointStopsBeforeTheFetch :
    ({ running with breakpoints := [0x4000] } : State).stopRequested = false
    ∧ running.pc ∈ ({ running with breakpoints := [0x4000] } : State).breakpoints
    ∧ HostAction.skip ∈ [HostAction.step, HostAction.skip] := by decide
theorem witness_RunTogglesAndStopRunStops :
    idle.cfg.wf = true ∧ idle.runState = .idle ∧ running.runState = .running ∧ idle.runState ≠ .running := by decide
theorem witness_BreakpointToggles :
    sortedBreakpoints ({ idle with breakpoints := [2, 4], primary := some 4 } : State).breakpoints
    ∧ (4 : Long) ∈ ({ idle with breakpoints := [2, 4], primary := some 4 } : State).breakpoints
    ∧ (3 : Long) ∉ ({ idle with breakpoints := [2, 4], primary := some 4 } : State).breakpoints := by decide
theorem witness_HostEditsRegistersAndMode : idle.cfg.wf = true ∧ idle.runState ≠ .running := by decide
theorem witness_DisabledHostOperationsAreRejected :
    (State.powerOn defaultConfig).cfg.wf = true ∧ (State.powerOn defaultConfig).runState = .noImage
    ∧ running.runState = .running := by decide
/-- An odd address, an image one byte too long, and the boundary that is still accepted. -/
theorem witness_DisabledHostOperationsAreRejected_image :
    idle.runState ≠ .running ∧ (parseImage 0 [1] 0x5001).1.getLsbD 0 = true
    ∧ idle.cfg.memSize < (parseImage 0 [1, 2, 3] 0x00F1CFFE).1.toNat + (parseImage 0 [1, 2, 3] 0x00F1CFFE).2.length
    ∧ (loadBin 0 (some [1, 2]) 0x00F1CFFE idle).1 = true := by decide

end Sys2Proof.Tests
end

/-! SUPPORT. What one instruction can do to the state: the inversion lemma of `exec`, from which the frame statements and
the invariant follow. -/

section
namespace Sys2Proof.Machine

/-! ### The flags an instruction may write, by its kind -/

/-- The kinds that write no flag (10_state R28, 92 D12). -/
def transparentKinds : List OpKind :=
  [.addqt, .subqt, .div, .move, .moveq, .movei, .movePc, .moveta, .movefa,
    .loadb, .loadw, .load, .loadR14n, .loadR15n, .loadR14rm, .loadR15rm,
    .storeb, .storew, .store, .storeR14n, .storeR15n, .storeR14rm, .storeR15rm,
    .jump, .jr, .nop, .packUnpack, .unknown]

/-- The kinds that write `Z` and `N` and keep `C` (40_arithmetic R144 to R148, 41_logical R160). -/
def carryKeepingKinds : List OpKind :=
  [.and, .or, .xor, .not, .bset, .bclr, .mult, .imult, .sat8, .sat16, .sat24]

/-- Is a kind free to write `Z` and `N`? -/
def mayWriteZN (k : OpKind) : Bool := !(transparentKinds ++ [OpKind.btst]).contains k

/-- Is a kind free to write all three flags? -/
def mayWriteFlags (k : OpKind) : Bool := mayWriteZN k && !carryKeepingKinds.contains k

/-- The flags that a kind of instruction must keep are kept. -/
structure KeepsFlags (k : OpKind) (s t : State) : Prop where
  transparent : k ∈ transparentKinds → FlagsSame s t
  carry : k ∈ carryKeepingKinds → t.c = s.c
  btst : k = .btst → t.n = s.n ∧ t.c = s.c

theorem mayWriteZN_iff (k : OpKind) : mayWriteZN k = true ↔ k ∉ transparentKinds ∧ k ≠ .btst := by
  simp [mayWriteZN]

theorem mayWriteFlags_iff (k : OpKind) :
    mayWriteFlags k = true ↔ (k ∉ transparentKinds ∧ k ≠ .btst) ∧ k ∉ carryKeepingKinds := by
  simp [mayWriteFlags, mayWriteZN_iff]

theorem KeepsFlags.of_mayWriteFlags {k : OpKind} {s t : State} (hk : mayWriteFlags k = true) : KeepsFlags k s t := by
  obtain ⟨⟨ht, hb⟩, hc⟩ := (mayWriteFlags_iff k).1 hk
  exact ⟨fun h => absurd h ht, fun h => absurd h hc, fun h => absurd h hb⟩

theorem KeepsFlags.of_mayWriteZN {k : OpKind} {s t : State} (hk : mayWriteZN k = true) (hc : t.c = s.c) :
    KeepsFlags k s t := by
  obtain ⟨ht, hb⟩ := (mayWriteZN_iff k).1 hk
  exact ⟨fun h => absurd h ht, fun _ => hc, fun h => absurd h hb⟩

theorem KeepsFlags.of_same {k : OpKind} {s t : State} (h : FlagsSame s t) : KeepsFlags k s t :=
  ⟨fun _ => h, fun _ => h.2.2, fun _ => h.2⟩

/-! ### What is left unchanged -/

/-- The memory and everything that is not a register, a flag or a report is unchanged. -/
structure OutsideSame (s t : State) : Prop where
  host : HostStateSame s t
  bank : t.bank = s.bank
  ds : t.ds = s.ds
  selfStop : t.selfStop = s.selfStop
  mem : t.mem = s.mem

/-- No register but the one that field `B` of the instruction names has changed, and in the other bank only by
`moveta`. -/
def OnlyNamedRegister (i : Instr) (s t : State) : Prop :=
  ∀ k r, (r ≠ i.fieldB ∨ (k ≠ s.bank ∧ ¬ ∃ a b, i = .moveta a b)) → t.reg k r = s.reg k r

/-- Nothing but flags and reports has changed. -/
def OnlyFlagsAndReports (s t : State) : Prop :=
  ∃ z n c rs, t = { s with z := z, n := n, c := c, reports := rs }

theorem HostStateSame.refl (s : State) : HostStateSame s s := ⟨rfl, rfl, rfl, rfl, rfl, rfl, rfl, rfl, rfl⟩

theorem HostStateSame.trans {s t u : State} (h : HostStateSame s t) (h' : HostStateSame t u) : HostStateSame s u := by
  simp_all [HostStateSame]

theorem HostStateSame.setX (s : State) (i : Reg) (v : Long) : HostStateSame s (s.setX i v) := by simp [HostStateSame]

theorem OutsideSame.trans {s t u : State} (h : OutsideSame s t) (h' : OutsideSame t u) : OutsideSame s u where
  host := h.host.trans h'.host
  bank := h'.bank.trans h.bank
  ds := h'.ds.trans h.ds
  selfStop := h'.selfStop.trans h.selfStop
  mem := h'.mem.trans h.mem

theorem OutsideSame.setX (s : State) (i : Reg) (v : Long) : OutsideSame s (s.setX i v) := by
  constructor <;> simp [HostStateSame]

theorem OutsideSame.setXo (s : State) (i : Reg) (v : Long) : OutsideSame s (s.setXo i v) := by
  constructor <;> simp [HostStateSame]

theorem OnlyFlagsAndReports.refl (s : State) : OnlyFlagsAndReports s s := ⟨_, _, _, _, rfl⟩

theorem OnlyFlagsAndReports.outside {s t : State} (h : OnlyFlagsAndReports s t) : OutsideSame s t := by
  obtain ⟨z, n, c, rs, rfl⟩ := h
  exact ⟨HostStateSame.refl s, rfl, rfl, rfl, rfl⟩

theorem OnlyFlagsAndReports.reg {s t : State} (h : OnlyFlagsAndReports s t) (k : Bool) (r : Reg) :
    t.reg k r = s.reg k r := by
  obtain ⟨z, n, c, rs, rfl⟩ := h
  cases k <;> rfl

/-! ### The inversion lemma of `exec` -/

/-- What an instruction `i` that answers `t` has done to `s`. -/
inductive Effect (i : Instr) (s t : State) : Prop
  /-- It has written at most its register, flags and reports. -/
  | computes (outside : OutsideSame s t) (regs : OnlyNamedRegister i s t) (flags : KeepsFlags i.kind s t)
  /-- It is a branch whose condition matched; the target is even when `pc` is (45_control R226, R227). -/
  | branches (target : Long) (branch : i.isBranch = true)
      (even : s.pc.getLsbD 0 = false → target.getLsbD 0 = false) (eq : t = s.setDelaySlot target)
  /-- It is a store, or a `div` in GPU mode, and has gone through `MemWrite`. -/
  | writes (u : State) (w : Width) (ea v : Long) (may : s.mayWriteMemory i = true) (notBranch : i.isBranch = false)
      (before : u = s ∨ ∃ q, u = s.setX i.fieldB q) (write : u.memWrite w ea v = .ok t)

/-- An instruction that writes its register last, or its flags after it. -/
theorem Effect.of_setX {i : Instr} {s u t : State} (v : Long) (hu : OnlyFlagsAndReports s u)
    (ht : OnlyFlagsAndReports (u.setX i.fieldB v) t) (hf : KeepsFlags i.kind s t) : Effect i s t := by
  refine .computes ((hu.outside.trans (OutsideSame.setX u i.fieldB v)).trans ht.outside) ?_ hf
  intro k r hkr
  have hb : u.bank = s.bank := hu.outside.bank
  rw [ht.reg, State.reg_setX, hb, hu.reg, if_neg]
  rintro ⟨rfl, rfl⟩
  simp at hkr

/-- An instruction that writes no register. -/
theorem Effect.of_flags {i : Instr} {s t : State} (ht : OnlyFlagsAndReports s t) (hf : KeepsFlags i.kind s t) :
    Effect i s t :=
  .computes ht.outside (fun k r _ => ht.reg k r) hf

theorem Effect.setX {i : Instr} {s : State} (v : Long) : Effect i s (s.setX i.fieldB v) :=
  .of_setX v (.refl s) (.refl _) (.of_same (by simp [FlagsSame]))

theorem Effect.setXo {a b : Reg} {s : State} (v : Long) : Effect (.moveta a b) s (s.setXo b v) := by
  refine .computes (OutsideSame.setXo s b v) ?_ (.of_same (by simp [FlagsSame]))
  intro k r hkr
  have hr : r ≠ b := by simpa [Instr.fieldB] using hkr
  simp [hr]

theorem Effect.addInto {i : Instr} {s : State} {y : Long} {c : Bool} (hk : mayWriteFlags i.kind = true) :
    Effect i s (s.addInto i.fieldB y c) :=
  .of_setX _ (.refl s) ⟨_, _, _, _, rfl⟩ (.of_mayWriteFlags hk)

theorem Effect.subInto {i : Instr} {s : State} {y : Long} {c : Bool} (hk : mayWriteFlags i.kind = true) :
    Effect i s (s.subInto i.fieldB y c) :=
  .of_setX _ (.refl s) ⟨_, _, _, _, rfl⟩ (.of_mayWriteFlags hk)

theorem Effect.compare {i : Instr} {s : State} {x y : Long} (hk : mayWriteFlags i.kind = true) :
    Effect i s (s.compare x y) :=
  .of_flags ⟨_, _, _, _, rfl⟩ (.of_mayWriteFlags hk)

/-- `neg` and `abs`, which write the carry before the result. -/
theorem Effect.setC_resultZN {i : Instr} {s : State} {c : Bool} {v : Long} (hk : mayWriteFlags i.kind = true) :
    Effect i s ((s.setC c).resultZN i.fieldB v) :=
  .of_setX v (u := s.setC c) ⟨_, _, _, _, rfl⟩ ⟨_, _, _, _, rfl⟩ (.of_mayWriteFlags hk)

theorem Effect.resultZN {i : Instr} {s : State} {v : Long} (hk : mayWriteZN i.kind = true) :
    Effect i s (s.resultZN i.fieldB v) :=
  .of_setX v (.refl s) ⟨_, _, _, _, rfl⟩ (.of_mayWriteZN hk (by simp [State.resultZN]))

theorem Effect.shiftInto {i : Instr} {s : State} {v : Long} {c : Bool} (hk : mayWriteFlags i.kind = true) :
    Effect i s (s.shiftInto i.fieldB v c) :=
  .of_setX v (.refl s) ⟨_, _, _, _, rfl⟩ (.of_mayWriteFlags hk)

theorem Effect.shiftBy {i : Instr} {s : State} {right : Long → Nat → Long} {amt : Int}
    (hk : mayWriteFlags i.kind = true) : Effect i s (s.shiftBy right i.fieldB amt) := by
  unfold State.shiftBy
  split
  · exact .shiftInto hk
  · exact .shiftInto hk

theorem Effect.btst {a : Field} {b : Reg} {s : State} (z : Bool) : Effect (.btst a b) s { s with z := z } := by
  refine .of_flags ⟨_, _, _, _, rfl⟩ ⟨fun h => ?_, fun _ => rfl, fun _ => ⟨rfl, rfl⟩⟩
  exact absurd h (show OpKind.btst ∉ transparentKinds by decide)

theorem Effect.nothing {i : Instr} {s : State} : Effect i s s := .of_flags (.refl s) (.of_same ⟨rfl, rfl, rfl⟩)

theorem Effect.report {i : Instr} {s : State} (r : Report) : Effect i s (s.report r) :=
  .of_flags ⟨_, _, _, _, rfl⟩ (.of_same ⟨rfl, rfl, rfl⟩)

/-- A branch, taken or not. -/
theorem Effect.branch {i : Instr} {s : State} {taken : Bool} {target : Long} (hb : i.isBranch = true)
    (he : s.pc.getLsbD 0 = false → target.getLsbD 0 = false) :
    Effect i s (if taken then s.setDelaySlot target else s) := by
  split
  · exact .branches target hb he rfl
  · exact .nothing

/-- A `jump` target has its low bit cleared (45_control R226). -/
theorem jump_target_even (v : Long) : (v &&& 0xFFFFFFFE).getLsbD 0 = false := by simp

/-- A `jr` target is an even distance from `pc` (45_control R227). -/
theorem jr_target_even {pc : Long} (n : Int) (h : pc.getLsbD 0 = false) :
    (pc + trunc32 (2 * n)).getLsbD 0 = false := by
  have ht := trunc32_toNat (2 * n)
  simp only [BitVec.getLsbD, Nat.testBit_zero, decide_eq_false_iff_not, BitVec.toNat_add] at h ⊢
  omega

/-- A read leaves the state it answers with as it was, but for the reports. -/
theorem State.memRead_frame {s t : State} {w : Width} {ea v : Long} (h : s.memRead w ea = .ok (v, t)) :
    ∃ rs, t = { s with reports := rs } := by
  rw [State.memRead_eq] at h
  split at h
  · cases h
    exact ⟨_, rfl⟩
  · cases hr : s.readWidth w (alignDown w ea).toNat with
    | error e => rw [hr] at h; cases h
    | ok x => rw [hr] at h; cases h; exact ⟨_, rfl⟩

theorem State.loadInto_eq (s : State) (w : Width) (ea : Long) (b : Reg) :
    s.loadInto w ea b = match s.memRead w ea with
      | .ok (v, u) => .next (u.setX b v)
      | .error f => .fault f := by
  unfold State.loadInto
  cases s.memRead w ea <;> rfl

theorem outcomeOf_next {r : Except Fault State} {t : State} (h : outcomeOf r = .next t) : r = .ok t := by
  cases r <;> cases h
  rfl

theorem Effect.loadInto {i : Instr} {s t : State} {w : Width} {ea : Long}
    (h : s.loadInto w ea i.fieldB = .next t) : Effect i s t := by
  rw [State.loadInto_eq] at h
  split at h
  · next v u hr =>
    cases h
    obtain ⟨rs, rfl⟩ := State.memRead_frame hr
    exact .of_setX v ⟨_, _, _, _, rfl⟩ (.refl _) (.of_same (by simp [FlagsSame]))
  · cases h

theorem Effect.storeFrom {i : Instr} {s t : State} {w : Width} {ea : Long} (hm : s.mayWriteMemory i = true)
    (hb : i.isBranch = false) (h : s.storeFrom w ea i.fieldB = .next t) : Effect i s t :=
  .writes s w ea _ hm hb (.inl rfl) (outcomeOf_next h)

theorem Effect.of_next {i : Instr} {s t u : State}
    (h : (Host.Outcome.next u : Host.Outcome State Fault Refusal) = .next t) (e : Effect i s u) : Effect i s t := by
  cases h
  exact e

theorem Effect.div {a b : Reg} {s t : State} (h : execDiv a b s = .next t) : Effect (.div a b) s t := by
  unfold execDiv at h
  split at h
  · next hm =>
    exact .writes _ .long _ _ (by simp [State.mayWriteMemory, hm]) rfl (.inr ⟨_, rfl⟩) (outcomeOf_next h)
  · exact .of_next h (.setX _)

/-- All that an instruction can do: the inversion lemma of the dispatch (45_control R222). -/
theorem exec_effect {i : Instr} {s t : State} (h : exec i s = .next t) : Effect i s t := by
  cases i with
  | add a b => exact .of_next h (.addInto rfl)
  | addc a b => exact .of_next h (.addInto rfl)
  | addq a b => exact .of_next h (.addInto rfl)
  | addqt a b => exact .of_next h (.setX _)
  | sub a b => exact .of_next h (.subInto rfl)
  | subc a b => exact .of_next h (.subInto rfl)
  | subq a b => exact .of_next h (.subInto rfl)
  | subqt a b => exact .of_next h (.setX _)
  | neg a b => exact .of_next h (.setC_resultZN rfl)
  | and a b => exact .of_next h (.resultZN rfl)
  | or a b => exact .of_next h (.resultZN rfl)
  | xor a b => exact .of_next h (.resultZN rfl)
  | not a b => exact .of_next h (.resultZN rfl)
  | btst a b => exact .of_next h (.btst _)
  | bset a b => exact .of_next h (.resultZN rfl)
  | bclr a b => exact .of_next h (.resultZN rfl)
  | mult a b => exact .of_next h (.resultZN rfl)
  | imult a b => exact .of_next h (.resultZN rfl)
  | div a b => exact .div h
  | abs a b => exact .of_next h (.setC_resultZN rfl)
  | sh a b => exact .of_next h (.shiftBy rfl)
  | shlq a b => exact .of_next h (.shiftInto rfl)
  | shrq a b => exact .of_next h (.shiftInto rfl)
  | sha a b => exact .of_next h (.shiftBy rfl)
  | sharq a b => exact .of_next h (.shiftInto rfl)
  | ror a b => exact .of_next h (.shiftInto rfl)
  | rorq a b => exact .of_next h (.shiftInto rfl)
  | cmp a b => exact .of_next h (.compare rfl)
  | cmpq a b => exact .of_next h (.compare rfl)
  | sat8 a b => exact .of_next h (.resultZN rfl)
  | sat16 a b => exact .of_next h (.resultZN rfl)
  | move a b => exact .of_next h (.setX _)
  | moveq a b => exact .of_next h (.setX _)
  | moveta a b => exact .of_next h (.setXo _)
  | movefa a b => exact .of_next h (.setX _)
  | movei a b imm => exact .of_next h (.setX _)
  | loadb a b => exact .loadInto h
  | loadw a b => exact .loadInto h
  | load a b => exact .loadInto h
  | loadR14n a b => exact .loadInto h
  | loadR15n a b => exact .loadInto h
  | storeb a b => exact .storeFrom rfl rfl h
  | storew a b => exact .storeFrom rfl rfl h
  | store a b => exact .storeFrom rfl rfl h
  | storeR14n a b => exact .storeFrom rfl rfl h
  | storeR15n a b => exact .storeFrom rfl rfl h
  | movePc a b => exact .of_next h (.setX _)
  | jump a b => exact .of_next h (.branch rfl (fun _ => jump_target_even _))
  | jr a b => exact .of_next h (.branch rfl (jr_target_even _))
  | nop a b => exact .of_next h .nothing
  | loadR14rm a b => exact .loadInto h
  | loadR15rm a b => exact .loadInto h
  | storeR14rm a b => exact .storeFrom rfl rfl h
  | storeR15rm a b => exact .storeFrom rfl rfl h
  | sat24 a b => exact .of_next h (.resultZN rfl)
  | pack b => exact .of_next h (.setX _)
  | unpack b => exact .of_next h (.setX _)
  | unknown op a b => exact .of_next h (.report _)

end Sys2Proof.Machine
end

/-! SUPPORT. The frame of one instruction, of the delay-slot commit and of one step, and the statements about what they
leave unchanged (10_state). -/

section
namespace Sys2Proof.Machine

/-! ### What `MemWrite` leaves unchanged -/

/-- All that a write that answers has done (20_memory R71, R76, R77). -/
theorem State.memWrite_cases {s t : State} {w : Width} {addr v : Long} (h : s.memWrite w addr v = .ok t) :
    (∃ rs, t = { s with reports := rs })
    ∨ (s.outOfBounds (alignDown w addr) (widthBytes w) = false ∧ ∃ f stop rs,
        t = { s.stored w addr v with bank := f.getLsbD 14, selfStop := stop, reports := rs }
        ∧ t.readLong s.modeParams.flagsAddr.toNat = .ok f ∧ (stop = s.selfStop ∨ s.runState = .running)) := by
  rw [State.memWrite_eq] at h
  split at h
  · cases h
    exact .inl ⟨_, rfl⟩
  · next ho =>
    refine .inr ⟨by simpa using ho, ?_⟩
    obtain ⟨f, hf, ⟨-, rfl⟩ | ⟨hr, c, -, ⟨-, rfl⟩ | ⟨-, rfl⟩⟩⟩ := State.writeHook_ok h
    · exact ⟨f, _, _, rfl, hf, .inl rfl⟩
    · exact ⟨f, _, _, rfl, hf, .inl rfl⟩
    · exact ⟨f, _, _, rfl, hf, .inr hr⟩

/-- A write touches the memory, the bank, `self_stop` and the reports alone. -/
theorem State.memWrite_frame {s t : State} {w : Width} {addr v : Long} (h : s.memWrite w addr v = .ok t) :
    HostStateSame s t ∧ FlagsSame s t ∧ t.ds = s.ds ∧ RegsSame s t := by
  obtain ⟨rs, rfl⟩ | ⟨-, f, stop, rs, rfl, -⟩ := State.memWrite_cases h
  · exact ⟨HostStateSame.refl s, ⟨rfl, rfl, rfl⟩, rfl, fun k _ => by cases k <;> rfl⟩
  · exact ⟨HostStateSame.refl s, ⟨rfl, rfl, rfl⟩, rfl, fun k _ => by cases k <;> rfl⟩

/-! ### The frame of one instruction -/

section
variable {i : Instr} {s t : State}

/-- No instruction writes `pc` or what the host owns (10_state R26, R33, R40 to R42). -/
theorem Effect.host (e : Effect i s t) : HostStateSame s t := by
  cases e with
  | computes outside regs flags => exact outside.host
  | branches target branch even eq => subst eq; exact HostStateSame.refl s
  | writes u w ea v may notBranch before write =>
    have hu : HostStateSame s u := by
      obtain rfl | ⟨q, rfl⟩ := before
      · exact HostStateSame.refl _
      · exact HostStateSame.setX s _ q
    exact hu.trans (State.memWrite_frame write).1

/-- Only a branch writes the delay slot (45_control R226, R227). -/
theorem Effect.ds (e : Effect i s t) (hb : i.isBranch = false) : t.ds = s.ds := by
  cases e with
  | computes outside regs flags => exact outside.ds
  | branches target branch even eq => rw [hb] at branch; cases branch
  | writes u w ea v may notBranch before write =>
    obtain ⟨-, -, hds, -⟩ := State.memWrite_frame write
    obtain rfl | ⟨q, rfl⟩ := before
    · exact hds
    · simpa using hds

/-- The recorded target stays even, on an even `pc` (45_control R226, R227). -/
theorem Effect.targetEven (e : Effect i s t) (hpc : s.pc.getLsbD 0 = false)
    (ht : s.ds.target.getLsbD 0 = false) : t.ds.target.getLsbD 0 = false := by
  cases e with
  | computes outside regs flags => rw [outside.ds]; exact ht
  | branches target branch even eq => subst eq; exact even hpc
  | writes u w ea v may notBranch before write =>
    rw [Effect.ds (.writes u w ea v may notBranch before write) notBranch]
    exact ht

/-- An instruction that may not write memory leaves the bank and the memory alone (10_state R21, 20_memory R61). -/
theorem Effect.outside_of_not_mayWriteMemory (e : Effect i s t) (hm : s.mayWriteMemory i = false) :
    t.bank = s.bank ∧ t.mem = s.mem := by
  cases e with
  | computes outside regs flags => exact ⟨outside.bank, outside.mem⟩
  | branches target branch even eq => subst eq; exact ⟨rfl, rfl⟩
  | writes u w ea v may notBranch before write => rw [hm] at may; cases may

/-- What an instruction does to the memory and what the write hook does with it: nothing, or bytes inside the buffer are
stored, the bank follows the flags register, and `self_stop` is touched only during a run (20_memory R71, R76, R77). -/
theorem Effect.memory (e : Effect i s t) :
    (t.mem = s.mem ∧ t.bank = s.bank ∧ t.selfStop = s.selfStop)
    ∨ ((∃ a bs, t.mem = s.mem.writeBytes a bs ∧ a + bs.length ≤ s.cfg.memSize)
      ∧ (∃ f, t.readLong s.modeParams.flagsAddr.toNat = .ok f ∧ t.bank = f.getLsbD 14)
      ∧ (t.selfStop = s.selfStop ∨ s.runState = .running)) := by
  cases e with
  | computes outside regs flags => exact .inl ⟨outside.mem, outside.bank, outside.selfStop⟩
  | branches target branch even eq => subst eq; exact .inl ⟨rfl, rfl, rfl⟩
  | writes u w ea v may notBranch before write =>
    have hu : u.mem = s.mem ∧ u.bank = s.bank ∧ u.selfStop = s.selfStop ∧ u.runState = s.runState
        ∧ u.cfg = s.cfg ∧ u.modeParams = s.modeParams := by
      obtain rfl | ⟨q, rfl⟩ := before
      · exact ⟨rfl, rfl, rfl, rfl, rfl, rfl⟩
      · simp [State.modeParams]
    obtain ⟨hmem, hbank, hstop, hrun, hcfg, hpar⟩ := hu
    obtain ⟨rs, rfl⟩ | ⟨ho, f, stop, rs, rfl, hf, hs⟩ := State.memWrite_cases write
    · exact .inl ⟨hmem, hbank, hstop⟩
    · refine .inr ⟨⟨(alignDown w ea).toNat, storeBytes w v, ?_, ?_⟩, ⟨f, ?_, rfl⟩, ?_⟩
      · simp [State.stored, hmem]
      · simp only [State.outOfBounds, Bool.or_eq_false_iff, decide_eq_false_iff_not, hcfg] at ho
        rw [storeBytes_length]
        omega
      · rwa [hpar] at hf
      · rwa [hstop, hrun] at hs

/-- Field `B` names the register that an instruction writes (10_state R20, R21). -/
theorem Effect.regs (e : Effect i s t) : OnlyNamedRegister i s t := by
  cases e with
  | computes outside regs flags => exact regs
  | branches target branch even eq => subst eq; exact fun k r _ => by simp
  | writes u w ea v may notBranch before write =>
    obtain ⟨-, -, -, hregs⟩ := State.memWrite_frame write
    intro k r hkr
    rw [hregs k r]
    obtain rfl | ⟨q, rfl⟩ := before
    · rfl
    · rw [State.reg_setX, if_neg]
      rintro ⟨rfl, rfl⟩
      simp at hkr

/-- The flags that the kind of an instruction must keep are kept (10_state R28, 92 D12). -/
theorem Effect.flags (e : Effect i s t) : KeepsFlags i.kind s t := by
  cases e with
  | computes outside regs flags => exact flags
  | branches target branch even eq => subst eq; exact .of_same ⟨rfl, rfl, rfl⟩
  | writes u w ea v may notBranch before write =>
    obtain ⟨-, hflags, -, -⟩ := State.memWrite_frame write
    obtain rfl | ⟨q, rfl⟩ := before
    · exact .of_same hflags
    · exact .of_same (by simpa [FlagsSame] using hflags)

end

/-- Settles O19, from the frame of `exec`: only the register that field `B` names is written. -/
theorem onlyTheNamedRegisterIsWritten : Obligations.OnlyTheNamedRegisterIsWritten := by
  unfold Obligations.OnlyTheNamedRegisterIsWritten
  intro i s t h
  have hregs := (exec_effect h).regs
  refine ⟨fun k r hr => hregs k r (.inl hr), fun hi r => hregs (!s.bank) r (.inr ⟨?_, hi⟩)⟩
  simp

/-- Settles O20, from the frame of `exec` on the memory and on the flags. -/
theorem onlyListedInstructionsWriteMemoryOrFlags : Obligations.OnlyListedInstructionsWriteMemoryOrFlags := by
  unfold Obligations.OnlyListedInstructionsWriteMemoryOrFlags
  intro i s t h
  have e := exec_effect h
  refine ⟨fun hm x => ?_, e.flags.transparent, e.flags.carry, e.flags.btst⟩
  obtain ⟨-, hmem⟩ := e.outside_of_not_mayWriteMemory hm
  rw [hmem]

/-! ### The frame of the commit and of one step -/

/-- What only the host may write, and the parameters, are as before, and no stop is requested that was not
(10_state R33, R41, R42, 00_scope R9). -/
def HostOwnedSame (s t : State) : Prop :=
  t.cfg = s.cfg ∧ t.mode = s.mode ∧ t.loadAddress = s.loadAddress ∧ t.programSize = s.programSize
  ∧ t.breakpoints = s.breakpoints ∧ t.primary = s.primary ∧ (t.stopRequested = true → s.stopRequested = true)

theorem HostOwnedSame.refl (s : State) : HostOwnedSame s s := ⟨rfl, rfl, rfl, rfl, rfl, rfl, id⟩

theorem HostOwnedSame.trans {s t u : State} (h : HostOwnedSame s t) (h' : HostOwnedSame t u) : HostOwnedSame s u := by
  obtain ⟨h1, h2, h3, h4, h5, h6, h7⟩ := h
  obtain ⟨h1', h2', h3', h4', h5', h6', h7'⟩ := h'
  exact ⟨h1'.trans h1, h2'.trans h2, h3'.trans h3, h4'.trans h4, h5'.trans h5, h6'.trans h6, fun h => h7 (h7' h)⟩

theorem HostStateSame.hostOwned {s t : State} (h : HostStateSame s t) : HostOwnedSame s t := by
  obtain ⟨hcfg, -, hmode, -, hstop, hload, hsize, hbps, hprim⟩ := h
  exact ⟨hcfg, hmode, hload, hsize, hbps, hprim, fun hr => hstop ▸ hr⟩

theorem HostOwnedSame.stopRunFor (s : State) (r : StopReason) : HostOwnedSame s (s.stopRunFor r) :=
  ⟨rfl, rfl, rfl, rfl, rfl, rfl, fun h => by cases h⟩

/-- The ways the commit can end (45_control R224, R225). -/
theorem State.commitDelaySlot_cases (s : State) (isBranch : Bool) :
    s.commitDelaySlot isBranch = s
    ∨ (isBranch = false ∧ s.ds.pending = true ∧
      ((s.outOfBounds s.ds.target 2 = true
          ∧ s.commitDelaySlot isBranch = (s.report (.pcOutOfBounds s.ds.target)).resetCore)
        ∨ s.commitDelaySlot isBranch
          = { s with pc := s.ds.target, ds := { target := s.ds.target, pending := false } })) := by
  rw [State.commitDelaySlot_eq]
  split
  · exact .inl rfl
  · next h =>
    refine .inr ⟨by simpa using (not_or.1 h).1, by simpa using (not_or.1 h).2, ?_⟩
    split
    · next ho => exact .inl ⟨ho, rfl⟩
    · exact .inr rfl

/-- The commit leaves the memory, the bank and what the host owns (10_state R51). -/
theorem State.commitDelaySlot_frame (s : State) (isBranch : Bool) :
    HostOwnedSame s (s.commitDelaySlot isBranch) ∧ (s.commitDelaySlot isBranch).mem = s.mem
    ∧ (s.commitDelaySlot isBranch).bank = s.bank := by
  obtain h | ⟨-, -, ⟨-, h⟩ | h⟩ := s.commitDelaySlot_cases isBranch <;> rw [h]
  · exact ⟨.refl s, rfl, rfl⟩
  · exact ⟨⟨rfl, rfl, rfl, rfl, rfl, rfl, fun h => by cases h⟩, rfl, rfl⟩
  · exact ⟨.refl s, rfl, rfl⟩

/-- The ways an iteration of the run loop can end (70_reset R316). -/
theorem State.afterRunStep_cases (s : State) :
    (s.afterRunStep = s ∧ (s.runState = .running → s.selfStop = false)) ∨ s.afterRunStep = s.stopRunFor .selfStop := by
  unfold State.afterRunStep
  split
  · next h => exact .inl ⟨rfl, fun hr => absurd hr h⟩
  · split
    · exact .inr rfl
    · next h => exact .inl ⟨rfl, fun _ => by simpa using h⟩

/-- All that a step can be, by the run state (70_reset R310, R313, R316). -/
theorem step_next {s t : State} (h : step s = .next t) :
    t = s.reject (.operation .step)
    ∨ (s.runState = .idle ∧ executeNext s = .next t)
    ∨ (∃ r, t = s.stopRunFor r)
    ∨ ∃ u, executeNext s = .next u ∧ t = u.afterRunStep := by
  by_cases hw : s.cfg.wf = true
  · cases hr : s.runState with
    | noImage => rw [step_of_noImage hw hr] at h; cases h; exact .inl rfl
    | idle => rw [step_of_idle hw hr] at h; exact .inr (.inl ⟨rfl, h⟩)
    | running =>
      rw [step_of_running hw hr] at h
      unfold runIteration at h
      split at h
      · cases h; exact .inr (.inr (.inl ⟨_, rfl⟩))
      split at h
      · cases h; exact .inr (.inr (.inl ⟨_, rfl⟩))
      split at h
      · cases h; exact .inr (.inr (.inl ⟨_, rfl⟩))
      split at h
      · next u hu => cases h; exact .inr (.inr (.inr ⟨u, hu, rfl⟩))
      · cases h
      · cases h
  · unfold step machineStep at h
    rw [if_pos (by simpa using hw)] at h
    cases h

/-- One executed instruction keeps what the host owns, and the bank follows the flags register. -/
theorem executeNext_frame {s t : State} (h : executeNext s = .next t) :
    HostOwnedSame s t
    ∧ (t.bank = s.bank ∨ ∃ f, t.readLong s.modeParams.flagsAddr.toNat = .ok f ∧ t.bank = f.getLsbD 14) := by
  obtain ⟨i, rs, u, -, hx, rfl⟩ := executeNext_next h
  have e := exec_effect hx
  obtain ⟨hown, hmem, hbank⟩ := u.commitDelaySlot_frame i.isBranch
  refine ⟨e.host.hostOwned.trans hown, ?_⟩
  rw [hbank, State.readLong_congr hmem]
  obtain ⟨-, hb, -⟩ | ⟨-, hf, -⟩ := e.memory
  · exact .inl hb
  · exact .inr hf

/-- The end of an iteration keeps what the host owns, the bank and the memory. -/
theorem State.afterRunStep_frame (s : State) :
    HostOwnedSame s s.afterRunStep ∧ s.afterRunStep.mem = s.mem ∧ s.afterRunStep.bank = s.bank := by
  obtain ⟨h, -⟩ | h := s.afterRunStep_cases <;> rw [h]
  · exact ⟨.refl s, rfl, rfl⟩
  · exact ⟨.stopRunFor s _, rfl, rfl⟩

/-- Settles O16, by the four things a step can be: `exec`, the commit and the end of an iteration each keep what the
host owns. -/
theorem stepKeepsWhatTheHostOwns : Obligations.StepKeepsWhatTheHostOwns := by
  unfold Obligations.StepKeepsWhatTheHostOwns
  intro s t h
  change HostOwnedSame s t
  obtain rfl | ⟨-, hx⟩ | ⟨r, rfl⟩ | ⟨u, hx, rfl⟩ := step_next h
  · exact .refl s
  · exact (executeNext_frame hx).1
  · exact .stopRunFor s r
  · exact (executeNext_frame hx).1.trans u.afterRunStep_frame.1

/-! ### The bank and `pc` under the host operations -/

/-- A host operation that executes nothing leaves the bank, and moves `pc` at most to the load address (10_state R26,
R51). -/
def BankAndPcKept (s t : State) : Prop := t.bank = s.bank ∧ (t.pc = s.pc ∨ t.pc = t.loadAddress)

theorem BankAndPcKept.reject (s : State) (r : Rejection) : BankAndPcKept s (s.reject r) := ⟨rfl, .inl rfl⟩

theorem loadBin_keeps (magic : Long) (file : Option (List Byte)) (address : Long) (s : State) :
    BankAndPcKept s (loadBin magic file address s).2 := by
  unfold loadBin
  split
  · exact .reject s _
  · split
    · exact .reject s _
    · simp only
      split
      · exact .reject s _
      · exact ⟨rfl, .inr rfl⟩

theorem hostReset_keeps (s : State) : BankAndPcKept s (hostReset s) := by
  unfold hostReset
  split
  · exact ⟨rfl, .inr rfl⟩
  · exact .reject s _
  · exact .reject s _

theorem hostRun_keeps (s : State) : BankAndPcKept s (hostRun s) := by
  unfold hostRun
  split
  · exact ⟨rfl, .inl rfl⟩
  · exact .reject s _
  · exact ⟨rfl, .inl rfl⟩

theorem hostStopRun_keeps (s : State) : BankAndPcKept s (hostStopRun s) := by
  unfold hostStopRun
  split <;> exact ⟨rfl, .inl rfl⟩

theorem setBreakpoint_keeps (text : Option Long) (s : State) : BankAndPcKept s (setBreakpoint text s) := by
  unfold setBreakpoint State.toggleBreakpoint
  split
  · split <;> exact ⟨rfl, .inl rfl⟩
  · exact .reject s _

theorem editRegister_keeps (edit : Option (Nat × Nat × Int)) (s : State) : BankAndPcKept s (editRegister edit s) := by
  unfold editRegister
  split
  · exact .reject s _
  · split
    · exact .reject s _
    · split
      · exact ⟨by simp, .inl (by simp)⟩
      · exact .reject s _

theorem setMode_keeps (isPrimaryMode : Bool) (s : State) : BankAndPcKept s (setMode isPrimaryMode s) := by
  unfold setMode
  split
  · exact .reject s _
  · exact ⟨rfl, .inl rfl⟩

/-- `skip()` leaves the bank, and moves `pc` by 2 or 6 (45_control R223). -/
theorem skipNext_frame {s t : State} (h : skipNext s = .next t) :
    t.bank = s.bank ∧ (t.pc = s.pc + 2 ∨ t.pc = s.pc + 6) := by
  obtain ⟨k, rs, rfl⟩ := skipNext_next h
  obtain hk | hk := opKind_width_cases k <;> rw [hk]
  · exact ⟨rfl, .inl rfl⟩
  · exact ⟨rfl, .inr rfl⟩

/-- Every host operation but `step()` leaves the bank, and all but `skip()` move `pc` at most by a reset. -/
theorem hostAct_frame {op : HostAction} {s t : State} (h : hostAct op s = .next t) (hs : op ≠ .step) :
    t.bank = s.bank ∧ (op ≠ .skip → t.pc = s.pc ∨ t.pc = t.loadAddress) := by
  unfold hostAct at h
  split at h
  · cases h
  suffices hk : op ≠ .skip → BankAndPcKept s t by
    by_cases hop : op = .skip
    · subst hop
      refine ⟨?_, fun h => absurd rfl h⟩
      simp only [hostSkip] at h
      split at h
      · exact (skipNext_frame h).1
      · cases h; rfl
      · cases h; rfl
    · exact ⟨(hk hop).1, fun _ => (hk hop).2⟩
  intro hop
  cases op with
  | loadBin magic file address => cases h; exact loadBin_keeps magic file address s
  | reset => cases h; exact hostReset_keeps s
  | step => exact absurd rfl hs
  | skip => exact absurd rfl hop
  | run => cases h; exact hostRun_keeps s
  | stopRun => cases h; exact hostStopRun_keeps s
  | setBreakpoint text => cases h; exact setBreakpoint_keeps text s
  | editRegister edit => cases h; exact editRegister_keeps edit s
  | setMode isPrimaryMode => cases h; exact setMode_keeps isPrimaryMode s

/-- The long at a register address, from the read. -/
theorem State.rawLong?_of_readLong {s : State} {a v : Long} (h : s.readLong a.toNat = .ok v) :
    s.rawLong? a = some v := by
  rw [State.rawLong?, h]
  rfl

/-- Settles O17: a step by what it can be, `exec` by its frame, a host operation by its own. -/
theorem bankFollowsTheFlagsRegister : Obligations.BankFollowsTheFlagsRegister := by
  unfold Obligations.BankFollowsTheFlagsRegister
  refine ⟨fun s t h => ?_, fun i s t h hm => ((exec_effect h).outside_of_not_mayWriteMemory hm).1,
    fun op s t h hop => (hostAct_frame h hop).1⟩
  suffices hb : t.bank = s.bank ∨ ∃ f, t.readLong s.modeParams.flagsAddr.toNat = .ok f ∧ t.bank = f.getLsbD 14 from
    hb.imp_right fun ⟨f, hf, hbit⟩ => ⟨f, State.rawLong?_of_readLong hf, hbit⟩
  obtain rfl | ⟨-, hx⟩ | ⟨r, rfl⟩ | ⟨u, hx, rfl⟩ := step_next h
  · exact .inl rfl
  · exact (executeNext_frame hx).2
  · exact .inl rfl
  · obtain ⟨-, hmem, hbank⟩ := u.afterRunStep_frame
    rw [hbank, State.readLong_congr hmem]
    exact (executeNext_frame hx).2

/-- An executed instruction moves `pc` past itself, to the pending target, or by a reset to the load address
(45_control R221, R224, R225). -/
theorem executeNext_pc {s t : State} (h : executeNext s = .next t) :
    t.pc = s.pc + 2 ∨ t.pc = s.pc + 6
    ∨ (s.ds.pending = true ∧ t.pc = s.ds.target ∧ t.ds.pending = false)
    ∨ (s.ds.pending = true ∧ (s.ds.target.getLsbD 31 = true ∨ s.cfg.memSize < s.ds.target.toNat + 2)
      ∧ t.pc = s.loadAddress ∧ t.ds = { target := 0, pending := false }) := by
  obtain ⟨i, rs, u, hw, hx, rfl⟩ := executeNext_next h
  have e := exec_effect hx
  obtain ⟨hcfg, hpc, -, -, -, hload, -⟩ := e.host
  obtain hc | ⟨hb, hp, hc⟩ := u.commitDelaySlot_cases i.isBranch
  · rw [hc, hpc]
    obtain hw | hw := hw <;> rw [hw]
    · exact .inl rfl
    · exact .inr (.inl rfl)
  · have hds : u.ds = s.ds := e.ds hb
    rw [hds] at hp hc
    obtain ⟨ho, hc⟩ | hc := hc <;> rw [hc]
    · refine .inr (.inr (.inr ⟨hp, ?_, hload, rfl⟩))
      rw [State.outOfBounds, hcfg] at ho
      simpa using ho
    · exact .inr (.inr (.inl ⟨hp, rfl, rfl⟩))

/-- Settles O18: `exec` by its frame, an executed instruction by the ways the commit can end, the host operations by
theirs. -/
theorem pcChangesInFourWays : Obligations.PcChangesInFourWays := by
  unfold Obligations.PcChangesInFourWays
  refine ⟨fun i s t h => ?_, fun s t => executeNext_pc, fun s t h => (skipNext_frame h).2,
    fun op s t h hstep hskip => (hostAct_frame h hstep).2 hskip⟩
  obtain ⟨-, hpc, -⟩ := (exec_effect h).host
  exact hpc

end Sys2Proof.Machine
end

/-! SUPPORT. The invariant of the state: every part of a step keeps it, and reset and power-on meet it. -/

section
namespace Sys2Proof.Machine

/-! ### The memory's part of the invariant -/

/-- What the invariant says of the memory under given parameters. -/
structure MemoryInv (c : Config) (m : Memory) : Prop where
  sorted : m.wf
  inBuffer : ∀ d ∈ m, d.1 < c.memSize
  registersHold : ∀ r ∈ c.registerAddrs, ∀ k, k < 4 → (m.read (r.toNat + k)).isSome = true

theorem State.Inv.memory {s : State} (h : s.Inv) : MemoryInv s.cfg s.mem :=
  ⟨h.memSorted, h.memInBuffer, h.registersHold⟩

/-- Storing bytes inside the buffer keeps the memory's part of the invariant (20_memory R60, R71). -/
theorem MemoryInv.writeBytes {c : Config} {m : Memory} (h : MemoryInv c m) {a : Nat} {bs : List Byte}
    (hb : a + bs.length ≤ c.memSize) : MemoryInv c (m.writeBytes a bs) where
  sorted := Memory.writeBytes_wf h.sorted a bs
  inBuffer := Memory.writeBytes_bounded h.inBuffer hb
  registersHold r hr k hk := Memory.isSome_writeBytes (h.registersHold r hr k hk)

/-- The bytes stored at a register that fits the buffer lie in it. -/
theorem Memory.withLong_bounded {m : Memory} {size : Nat} {r : Long × Long} (h : ∀ d ∈ m, d.1 < size)
    (hr : r.1.toNat + 4 ≤ size) : ∀ d ∈ m.withLong r, d.1 < size := by
  refine Memory.writeBytes_bounded h ?_
  simpa [bytesOfWords, bytesOfWord] using hr

/-- 00_scope R5: every memory-mapped register lies in the buffer. -/
theorem Config.registers_in_buffer {c : Config} (h : c.wf = true) {r : Long} (hr : r ∈ c.registerAddrs) :
    r.toNat + 4 ≤ c.memSize := by
  simp only [Config.wf, Bool.and_eq_true, List.all_eq_true, decide_eq_true_eq] at h
  obtain ⟨⟨⟨⟨⟨⟨⟨⟨-, hin⟩, -⟩, -⟩, -⟩, -⟩, -⟩, -⟩, -⟩ := h
  exact hin r hr

/-- The memory at power-on lies in the buffer, for all admitted parameters. -/
theorem powerOnMemory_bounded {c : Config} (h : c.wf = true) : ∀ d ∈ powerOnMemory c, d.1 < c.memSize := by
  have fold : ∀ (rs : List (Long × Long)) (m : Memory), (∀ r ∈ rs, r.1.toNat + 4 ≤ c.memSize) →
      (∀ d ∈ m, d.1 < c.memSize) → ∀ d ∈ rs.foldl Memory.withLong m, d.1 < c.memSize := by
    intro rs
    induction rs with
    | nil => exact fun m _ hm => hm
    | cons r rs ih =>
      intro m hr hm
      exact ih _ (fun q hq => hr q (by simp [hq])) (Memory.withLong_bounded hm (hr r (by simp)))
  refine fold _ [] (fun r hr => Config.registers_in_buffer h ?_) (by simp)
  have hmap : (powerOnRegisters c).map Prod.fst = c.registerAddrs := rfl
  exact hmap ▸ List.mem_map_of_mem hr

/-! ### The invariant inside a step -/

/-- The invariant inside an iteration: `self_stop` may be set, but only of a running machine (20_memory R77). -/
structure State.InvInStep (s : State) : Prop where
  inv : ({ s with selfStop := false } : State).Inv
  selfStopRunning : s.selfStop = true → s.runState = .running

theorem State.Inv.inStep {s : State} (h : s.Inv) : s.InvInStep where
  inv := { h with noSelfStop := rfl }
  selfStopRunning hs := by rw [h.noSelfStop] at hs; cases hs

theorem State.InvInStep.toInv {s : State} (h : s.InvInStep) (hs : s.selfStop = false) : s.Inv :=
  { h.inv with noSelfStop := hs }

/-- The invariant of a state whose host part another state shares. -/
theorem State.Inv.inStep_of_host {s t : State} (h : s.Inv) (hh : HostStateSame s t) (hm : MemoryInv s.cfg t.mem)
    (ht : t.ds.target.getLsbD 0 = false) (hs : t.selfStop = true → s.runState = .running) : t.InvInStep := by
  obtain ⟨hcfg, hpc, -, hrun, hstop, hload, -, hbps, hprim⟩ := hh
  exact
    { inv :=
        { memSorted := hm.sorted
          memInBuffer := hcfg ▸ hm.inBuffer
          registersHold := hcfg ▸ hm.registersHold
          pcEven := hpc ▸ h.pcEven
          targetEven := ht
          loadAddressEven := hload ▸ h.loadAddressEven
          noSelfStop := rfl
          stopOnlyWhileRunning := fun hr => hrun ▸ h.stopOnlyWhileRunning (hstop ▸ hr)
          breakpointsSorted := hbps ▸ h.breakpointsSorted
          primaryIsBreakpoint := fun a ha => hbps ▸ h.primaryIsBreakpoint a (hprim ▸ ha) }
      selfStopRunning := fun hr => hrun ▸ hs hr }

/-- Reports are no part of the invariant. -/
theorem State.Inv.reports {s : State} (h : s.Inv) (rs : List Report) : ({ s with reports := rs } : State).Inv :=
  { h with }

/-- An even `pc` may take any even value (10_state R25). -/
theorem State.Inv.setPc {s : State} (h : s.Inv) {pc : Long} (hpc : pc.getLsbD 0 = false) :
    ({ s with pc := pc } : State).Inv :=
  { h with pcEven := hpc }

/-- `pc` stays even when it moves past an instruction (45_control R221). -/
theorem advanced_pc_even {pc : Long} {n : Nat} (h : pc.getLsbD 0 = false) (hn : n = 2 ∨ n = 6) :
    (pc + BitVec.ofNat 32 n).getLsbD 0 = false := by
  simp only [BitVec.getLsbD, Nat.testBit_zero, decide_eq_false_iff_not, BitVec.toNat_add, BitVec.toNat_ofNat] at h ⊢
  omega

theorem zero_even : (0 : Long).getLsbD 0 = false := by decide

/-- `Reset()` meets the invariant again (70_reset R300). -/
theorem State.InvInStep.resetCore {s : State} (h : s.InvInStep) : s.resetCore.Inv :=
  { h.inv with
    pcEven := h.inv.loadAddressEven, targetEven := zero_even, noSelfStop := rfl,
    stopOnlyWhileRunning := fun hr => by cases hr }

/-- The end of a run meets the invariant again (70_reset R316). -/
theorem State.InvInStep.stopRunFor {s : State} (h : s.InvInStep) (r : StopReason) : (s.stopRunFor r).Inv :=
  { h.inv with noSelfStop := rfl, stopOnlyWhileRunning := fun hr => by cases hr }

/-! ### Every part of a step keeps the invariant -/

/-- The rule of an instruction keeps the invariant, but that it may set `self_stop` during a run. -/
theorem exec_keeps_inv {i : Instr} {s t : State} (h : s.Inv) (hx : exec i s = .next t) : t.InvInStep := by
  have e := exec_effect hx
  have ht : t.ds.target.getLsbD 0 = false := e.targetEven h.pcEven h.targetEven
  obtain ⟨hmem, -, hstop⟩ | ⟨⟨a, bs, hmem, hb⟩, -, hstop⟩ := e.memory
  · refine h.inStep_of_host e.host (hmem ▸ h.memory) ht fun hs => ?_
    rw [hstop, h.noSelfStop] at hs
    cases hs
  · refine h.inStep_of_host e.host (hmem ▸ h.memory.writeBytes hb) ht fun hs => ?_
    refine hstop.resolve_left fun hsame => ?_
    rw [hsame, h.noSelfStop] at hs
    cases hs

/-- The commit keeps it: a committed target is even, and a fatal target resets the core (45_control R224, R225). -/
theorem State.InvInStep.commitDelaySlot {s : State} (h : s.InvInStep) (isBranch : Bool) :
    (s.commitDelaySlot isBranch).InvInStep := by
  obtain hc | ⟨-, -, ⟨-, hc⟩ | hc⟩ := s.commitDelaySlot_cases isBranch <;> rw [hc]
  · exact h
  · have hr : (s.report (.pcOutOfBounds s.ds.target)).InvInStep := ⟨h.inv.reports _, h.selfStopRunning⟩
    exact hr.resetCore.inStep
  · exact ⟨{ h.inv with pcEven := h.inv.targetEven }, h.selfStopRunning⟩

/-- One executed instruction keeps the invariant, but that it may set `self_stop` during a run. -/
theorem executeNext_keeps_inv {s t : State} (h : s.Inv) (hx : executeNext s = .next t) : t.InvInStep := by
  obtain ⟨i, rs, u, hw, hu, rfl⟩ := executeNext_next hx
  have h1 : ({ s with pc := s.pc + BitVec.ofNat 32 i.width, reports := s.reports ++ rs } : State).Inv :=
    (h.setPc (advanced_pc_even h.pcEven hw)).reports _
  exact (exec_keeps_inv h1 hu).commitDelaySlot i.isBranch

/-- The end of an iteration clears `self_stop`, so the invariant holds again (70_reset R316). -/
theorem State.InvInStep.afterRunStep {s : State} (h : s.InvInStep) : s.afterRunStep.Inv := by
  obtain ⟨ha, hr⟩ | ha := s.afterRunStep_cases <;> rw [ha]
  · refine h.toInv ?_
    by_contra hs
    have hs' : s.selfStop = true := by simpa using hs
    exact hs (hr (h.selfStopRunning hs'))
  · exact h.stopRunFor _

/-- An instruction of an idle machine leaves `self_stop` clear (20_memory R77). -/
theorem executeNext_idle_selfStop {s t : State} (h : s.Inv) (hr : s.runState = .idle) (hx : executeNext s = .next t) :
    t.selfStop = false := by
  obtain ⟨i, rs, u, hw, hu, rfl⟩ := executeNext_next hx
  have e := exec_effect hu
  have hs : u.selfStop = false := by
    obtain ⟨-, -, hs⟩ | ⟨-, -, hs | hrun⟩ := e.memory
    · rw [hs]; exact h.noSelfStop
    · rw [hs]; exact h.noSelfStop
    · have hrun' : s.runState = .running := hrun
      rw [hr] at hrun'
      cases hrun'
  obtain hc | ⟨-, -, ⟨-, hc⟩ | hc⟩ := u.commitDelaySlot_cases i.isBranch <;> rw [hc]
  · exact hs
  · rfl
  · exact hs

/-- Settles O13, by the four things a step can be: inside an iteration the invariant holds but for `self_stop`
(`State.InvInStep`), and the end of the iteration, or the idle machine's hook, leaves it clear. -/
theorem stepKeepsTheInvariant : Obligations.StepKeepsTheInvariant := by
  unfold Obligations.StepKeepsTheInvariant
  intro s t h hx
  obtain rfl | ⟨hr, hx⟩ | ⟨r, rfl⟩ | ⟨u, hu, rfl⟩ := step_next hx
  · exact h.reports _
  · exact (executeNext_keeps_inv h hx).toInv (executeNext_idle_selfStop h hr hx)
  · exact h.inStep.stopRunFor r
  · exact (executeNext_keeps_inv h hu).afterRunStep

/-! ### Reset and power-on -/

/-- The power-on state meets the invariant, for all admitted parameters (10_state R52, log entry 23). -/
theorem State.powerOn_inv {cfg : Config} (h : cfg.wf = true) : (State.powerOn cfg).Inv where
  memSorted := by rw [State.powerOn_mem]; exact powerOnMemory_wf cfg
  memInBuffer := by rw [State.powerOn_mem, State.powerOn_cfg]; exact powerOnMemory_bounded h
  registersHold := by rw [State.powerOn_mem, State.powerOn_cfg]; exact fun _ hr _ hk => powerOnMemory_isSome hr hk
  pcEven := zero_even
  targetEven := zero_even
  loadAddressEven := zero_even
  noSelfStop := rfl
  stopOnlyWhileRunning hr := by cases hr
  breakpointsSorted := .nil
  primaryIsBreakpoint _ ha := by cases ha

/-- Settles O14: `State.reset` is `Reset()` over the power-on state of the default parameters, which meets the
invariant. -/
theorem resetMeetsTheInvariant : Obligations.ResetMeetsTheInvariant := by
  unfold Obligations.ResetMeetsTheInvariant
  have hwf : defaultConfig.wf = true := by decide
  refine ⟨?_, fun cfg => State.powerOn_inv⟩
  rw [State.reset_eq]
  exact (State.powerOn_inv hwf).inStep.resetCore

/-- Settles O52: `reset()` of an idle machine is `Reset()`, whose fields are its list. -/
theorem resetWritesOnlyItsList : Obligations.ResetWritesOnlyItsList := by
  unfold Obligations.ResetWritesOnlyItsList
  intro s hw hr
  have ha : hostAct .reset s = .next s.resetCore := by simp [hostAct, hw, hostReset, hr]
  exact ⟨s.resetCore, ha, fun k r => s.reg_resetCore k r, rfl, rfl, rfl, rfl, rfl, rfl, rfl, rfl, rfl, rfl, rfl, rfl,
    rfl, rfl, rfl, rfl, rfl⟩

end Sys2Proof.Machine
end

/-! SUPPORT. When the model stops: a load, a write hook and a fetch that read a byte nothing has written (93 U1, log
entry 1). -/

section
namespace Sys2Proof.Machine

/-! ### Reads of memory whose first unwritten byte is known -/

/-- The byte at `a + k` is the first from `a` on that has no value. -/
def FirstUnwritten (m : Memory) (a k : Nat) : Prop :=
  m.read (a + k) = none ∧ ∀ j, j < k → (m.read (a + j)).isSome = true

theorem FirstUnwritten.before {m : Memory} {a k j : Nat} (h : FirstUnwritten m a k) (hj : j < k) :
    ∃ v, m.read (a + j) = some v :=
  Option.isSome_iff_exists.1 (h.2 j hj)

theorem FirstUnwritten.first {m : Memory} {a k : Nat} (h : FirstUnwritten m a k) (hk : 0 < k) :
    ∃ v, m.read a = some v :=
  h.before (j := 0) hk

theorem FirstUnwritten.shift {m : Memory} {a k n : Nat} (h : FirstUnwritten m a (n + k)) :
    FirstUnwritten m (a + n) k := by
  refine ⟨by rw [Nat.add_assoc]; exact h.1, fun j hj => ?_⟩
  rw [Nat.add_assoc]
  exact h.2 (n + j) (by omega)

section
variable {s : State} {a k : Nat}

theorem State.readByte_unwritten (h : s.mem.read a = none) : s.readByte a = .error (.unwrittenByte a) := by
  rw [State.readByte_eq, h]

theorem State.readByte_written {v : Byte} (h : s.mem.read a = some v) : s.readByte a = .ok v := by
  rw [State.readByte_eq, h]

theorem State.readWord_written {h l : Byte} (hh : s.mem.read a = some h) (hl : s.mem.read (a + 1) = some l) :
    s.readWord a = .ok (h ++ l) := by
  rw [State.readWord, State.readByte_written hh, State.readByte_written hl]
  rfl

theorem State.readWord_unwritten (h : FirstUnwritten s.mem a k) (hk : k < 2) :
    s.readWord a = .error (.unwrittenByte (a + k)) := by
  rw [State.readWord]
  match k, h, hk with
  | 0, h, _ =>
    rw [State.readByte_unwritten (a := a) h.1]
    rfl
  | 1, h, _ =>
    obtain ⟨v, hv⟩ := h.first (by decide)
    rw [State.readByte_written hv, State.readByte_unwritten h.1]
    rfl

theorem State.readLong_unwritten (h : FirstUnwritten s.mem a k) (hk : k < 4) :
    s.readLong a = .error (.unwrittenByte (a + k)) := by
  rw [State.readLong]
  match k, h, hk with
  | 0, h, _ =>
    rw [State.readByte_unwritten (a := a) h.1]
    rfl
  | 1, h, _ =>
    obtain ⟨v0, h0⟩ := h.first (by decide)
    rw [State.readByte_written h0, State.readByte_unwritten h.1]
    rfl
  | 2, h, _ =>
    obtain ⟨v0, h0⟩ := h.first (by decide)
    obtain ⟨v1, h1⟩ := h.before (j := 1) (by decide)
    rw [State.readByte_written h0, State.readByte_written h1, State.readByte_unwritten h.1]
    rfl
  | 3, h, _ =>
    obtain ⟨v0, h0⟩ := h.first (by decide)
    obtain ⟨v1, h1⟩ := h.before (j := 1) (by decide)
    obtain ⟨v2, h2⟩ := h.before (j := 2) (by decide)
    rw [State.readByte_written h0, State.readByte_written h1, State.readByte_written h2, State.readByte_unwritten h.1]
    rfl

/-- A read faults at the first byte of its operand that has no value. -/
theorem State.readWidth_unwritten {w : Width} (h : FirstUnwritten s.mem a k) (hk : k < widthBytes w) :
    s.readWidth w a = .error (.unwrittenByte (a + k)) := by
  cases w with
  | byte =>
    obtain rfl : k = 0 := by simpa [widthBytes] using hk
    rw [State.readWidth, State.readByte_unwritten (a := a) h.1]
    rfl
  | word =>
    rw [State.readWidth, State.readWord_unwritten h hk]
    rfl
  | long => exact State.readLong_unwritten h hk

end

/-! ### Loads, stores and `div` -/

theorem exec_of_loadOperand {i : Instr} {s : State} {w : Width} {ea : Long} {b : Reg}
    (h : s.loadOperand i = some (w, ea, b)) : exec i s = s.loadInto w ea b := by
  unfold State.loadOperand at h
  split at h
  all_goals cases h
  all_goals rfl

theorem exec_of_storeOperand {i : Instr} {s : State} {w : Width} {ea : Long} {b : Reg}
    (h : s.storeOperand i = some (w, ea, b)) : exec i s = s.storeFrom w ea b := by
  unfold State.storeOperand at h
  split at h
  all_goals cases h
  all_goals rfl

theorem exec_div_of_gpu {s : State} (a b : Reg) (h : s.mode = .gpu) :
    exec (.div a b) s = outcomeOf
      ((s.setX b (divQuotient (s.x b) (s.x a))).memWrite .long s.cfg.remainAddr (divAdjusted (s.x b) (s.x a))) := by
  change execDiv a b s = _
  rw [execDiv, h]

/-- A load in bounds faults at the first byte of its operand that has no value (10_state R52). -/
theorem State.loadInto_unwritten {s : State} {w : Width} {ea : Long} {b : Reg} {k : Nat}
    (ho : s.outOfBounds (alignDown w ea) (widthBytes w) = false) (hk : k < widthBytes w)
    (h : FirstUnwritten s.mem (alignDown w ea).toNat k) :
    s.loadInto w ea b = .fault (.unwrittenByte ((alignDown w ea).toNat + k)) := by
  rw [State.loadInto_eq, State.memRead_eq, if_neg (by simp [ho]), State.readWidth_unwritten h hk]
  rfl

/-- A write in bounds that answers has found the registers of its hook readable (20_memory R76, R77). -/
theorem State.memWrite_hookReady {s t : State} {w : Width} {ea v : Long}
    (ho : s.outOfBounds (alignDown w ea) (widthBytes w) = false) (h : s.memWrite w ea v = .ok t) :
    s.hookReady w ea v := by
  rw [State.memWrite_eq, if_neg (by simp [ho])] at h
  obtain ⟨f, hf, hc⟩ := State.writeHook_ok h
  refine ⟨⟨f, State.rawLong?_of_readLong hf⟩, fun hr => ?_⟩
  obtain ⟨hn, -⟩ | ⟨-, c, hc, -⟩ := hc
  · exact absurd hr hn
  · exact ⟨c, State.rawLong?_of_readLong hc⟩

/-- A write in bounds whose hook meets an unreadable register faults at a byte that has no value (70_reset R304). -/
theorem State.memWrite_faults {s : State} {w : Width} {ea v : Long}
    (ho : s.outOfBounds (alignDown w ea) (widthBytes w) = false) (h : ¬ s.hookReady w ea v) :
    ∃ x, outcomeOf (s.memWrite w ea v) = .fault (.unwrittenByte x) ∧ s.mem.read x = none := by
  cases hw : s.memWrite w ea v with
  | ok t => exact absurd (State.memWrite_hookReady ho hw) h
  | error f =>
    obtain ⟨x, rfl, hx⟩ := State.memWrite_error hw
    exact ⟨x, rfl, hx⟩

/-- 00_scope R5: the buffer lies below bit 31. -/
theorem Config.memSize_le {c : Config} (h : c.wf = true) : c.memSize ≤ 2 ^ 31 := by
  simp only [Config.wf, Bool.and_eq_true, decide_eq_true_eq] at h
  obtain ⟨⟨-, hsize⟩, -⟩ := h
  exact hsize

/-- Under admitted parameters an operand that ends inside the buffer is in bounds (20_memory R65). -/
theorem State.inBounds_of_wf {s : State} (hw : s.cfg.wf = true) {a : Long} {n : Nat} (hn : 0 < n)
    (h : a.toNat + n ≤ s.cfg.memSize) : s.outOfBounds a n = false := by
  have hsize := Config.memSize_le hw
  simp only [State.outOfBounds, sign_bit, Bool.or_eq_false_iff, decide_eq_false_iff_not]
  omega

theorem State.remainAddr_inBounds {s : State} (hw : s.cfg.wf = true) :
    s.outOfBounds (alignDown .long s.cfg.remainAddr) (widthBytes .long) = false := by
  have hr := Config.registers_in_buffer hw (r := s.cfg.remainAddr) (by simp [Config.registerAddrs])
  refine State.inBounds_of_wf hw (by decide) ?_
  rw [alignDown_toNat]
  simp only [widthBytes]
  omega

/-- A register written before changes nothing for the write hook. -/
theorem State.hookReady_setX (s : State) (i : Reg) (q : Long) (w : Width) (ea v : Long) :
    (s.setX i q).hookReady w ea v ↔ s.hookReady w ea v := by
  have hmem : ((s.setX i q).stored w ea v).mem = (s.stored w ea v).mem := by simp [State.stored]
  simp only [State.hookReady, State.rawLong?, State.readLong_congr hmem, State.modeParams, State.setX_mode,
    State.setX_cfg, State.setX_runState]

/-! ### The fetch -/

section
variable {s : State} {a : Long}

/-- A fetch in bounds reads the word at its even address (20_memory R72). -/
theorem State.fetch_inBounds (hw : s.cfg.wf = true) (he : a.getLsbD 0 = false) (hb : a.toNat + 2 ≤ s.cfg.memSize) :
    s.fetch a = (s.readWord a.toNat).map (fun v => (v, s)) := by
  rw [State.fetch_eq s a he, if_neg (by simp [State.inBounds_of_wf hw (by decide : 0 < 2) hb])]

theorem State.fetch_unwritten {k : Nat} (hw : s.cfg.wf = true) (he : a.getLsbD 0 = false)
    (hb : a.toNat + 2 ≤ s.cfg.memSize) (h : FirstUnwritten s.mem a.toNat k) (hk : k < 2) :
    s.fetch a = .error (.unwrittenByte (a.toNat + k)) := by
  rw [State.fetch_inBounds hw he hb, State.readWord_unwritten h hk]
  rfl

theorem State.fetch_written {h l : Byte} (hw : s.cfg.wf = true) (he : a.getLsbD 0 = false)
    (hb : a.toNat + 2 ≤ s.cfg.memSize) (hh : s.mem.read a.toNat = some h) (hl : s.mem.read (a.toNat + 1) = some l) :
    s.fetch a = .ok (h ++ l, s) := by
  rw [State.fetch_inBounds hw he hb, State.readWord_written hh hl]
  rfl

end

/-- The address of a word `n` bytes after an even `pc`, which stays below 2^32. -/
theorem pc_add_even {pc : Long} {n : Nat} (he : pc.getLsbD 0 = false) (hn : n % 2 = 0) (hb : pc.toNat + n < 2 ^ 32) :
    (pc + BitVec.ofNat 32 n).toNat = pc.toNat + n ∧ (pc + BitVec.ofNat 32 n).getLsbD 0 = false := by
  simp only [BitVec.getLsbD, Nat.testBit_zero, decide_eq_false_iff_not, BitVec.toNat_add, BitVec.toNat_ofNat] at he ⊢
  omega

section
variable {s : State} {pc : Long} {n : Nat}

/-- A fetch `n` bytes after an even address faults at the first byte from there on that has no value. -/
theorem State.fetch_unwritten_after {j : Nat} (hw : s.cfg.wf = true) (he : pc.getLsbD 0 = false) (hn : n % 2 = 0)
    (hb : pc.toNat + n + 2 ≤ s.cfg.memSize) (h : FirstUnwritten s.mem pc.toNat (n + j)) (hj : j < 2) :
    s.fetch (pc + BitVec.ofNat 32 n) = .error (.unwrittenByte (pc.toNat + (n + j))) := by
  have hsize := Config.memSize_le hw
  obtain ⟨ha, hae⟩ := pc_add_even (n := n) he hn (by omega)
  rw [State.fetch_unwritten hw hae (by omega) (ha ▸ h.shift) hj, ha, Nat.add_assoc]

/-- A fetch `n` bytes after an even address answers when the first byte without a value lies behind it. -/
theorem State.fetch_written_after {k : Nat} (hw : s.cfg.wf = true) (he : pc.getLsbD 0 = false) (hn : n % 2 = 0)
    (hb : pc.toNat + n + 2 ≤ s.cfg.memSize) (h : FirstUnwritten s.mem pc.toNat k) (hk : n + 2 ≤ k) :
    ∃ w, s.fetch (pc + BitVec.ofNat 32 n) = .ok (w, s) := by
  have hsize := Config.memSize_le hw
  obtain ⟨ha, hae⟩ := pc_add_even (n := n) he hn (by omega)
  obtain ⟨v, hv⟩ := h.before (j := n) (by omega)
  obtain ⟨l, hl⟩ := h.before (j := n + 1) (by omega)
  exact ⟨_, State.fetch_written hw hae (by omega) (ha ▸ hv) (by rw [ha, Nat.add_assoc]; exact hl)⟩

end

/-- An extension word that cannot be fetched is a fault of the instruction (20_memory R73). -/
theorem State.instruction_of_movei_fault {s : State} {w : Word} {f : Fault}
    (hk : kindOfWord s.cfg.opcodeMap w = .movei)
    (h : s.fetch (s.pc - 6 + 2) = .error f
      ∨ ∃ w1, s.fetch (s.pc - 6 + 2) = .ok (w1, s) ∧ s.fetch (s.pc - 6 + 4) = .error f) :
    s.instruction w = .error f := by
  unfold State.instruction State.fetchImmediate
  rw [hk]
  obtain h1 | ⟨w1, h1, h2⟩ := h
  · simp only [h1]
    rfl
  · simp only [h1]
    change ((s.fetch (s.pc - 6 + 4) >>= _) >>= _) = _
    rw [h2]
    rfl

/-- A `movei` at `pc` faults at the first byte of its extension words that has no value (20_memory R73). -/
theorem State.instruction_unwritten {s : State} {pc : Long} {w : Word} {k : Nat} (hpc : s.pc - 6 = pc)
    (hw : s.cfg.wf = true) (he : pc.getLsbD 0 = false) (hb : pc.toNat + 2 * (k / 2) + 2 ≤ s.cfg.memSize)
    (h : FirstUnwritten s.mem pc.toNat k) (hk2 : 2 ≤ k) (hk6 : k < 6) (hm : kindOfWord s.cfg.opcodeMap w = .movei) :
    s.instruction w = .error (.unwrittenByte (pc.toNat + k)) := by
  refine State.instruction_of_movei_fault hm ?_
  rw [hpc]
  obtain hk4 | hk4 := Nat.lt_or_ge k 4
  · obtain ⟨j, rfl⟩ := Nat.exists_eq_add_of_le hk2
    exact .inl (State.fetch_unwritten_after (n := 2) hw he (by decide) (by omega) h (by omega))
  · obtain ⟨w1, h1⟩ := State.fetch_written_after (n := 2) hw he (by decide) (by omega) h hk4
    obtain ⟨j, rfl⟩ := Nat.exists_eq_add_of_le hk4
    exact .inr ⟨w1, h1, State.fetch_unwritten_after (n := 4) hw he (by decide) (by omega) h (by omega)⟩

/-! ### A step and a skip at an unwritten byte -/

section
variable {s : State} {k : Nat}

/-- The opcode word at `pc`, or an extension word of the `movei` there, has an unwritten byte: the instruction
faults. -/
theorem executeNext_unwritten (hw : s.cfg.wf = true) (he : s.pc.getLsbD 0 = false)
    (hb : s.pc.toNat + 2 * (k / 2) + 2 ≤ s.cfg.memSize) (h : FirstUnwritten s.mem s.pc.toNat k)
    (hk : k < 2 ∨ (k < 6 ∧ ∃ h l, s.mem.read s.pc.toNat = some h ∧ s.mem.read (s.pc.toNat + 1) = some l
      ∧ s.cfg.opcodeMap.select (opField (h ++ l)) = .movei)) :
    executeNext s = .fault (.unwrittenByte (s.pc.toNat + k)) := by
  unfold executeNext
  obtain hk2 | hk2 := Nat.lt_or_ge k 2
  · rw [State.fetch_unwritten hw he (by omega) h hk2]
  · obtain ⟨hk6, b1, b0, h1, h0, hm⟩ := hk.resolve_left (by omega)
    have hkind : kindOfWord s.cfg.opcodeMap (b1 ++ b0) = .movei := hm
    have hi : (s.advance 6).instruction (b1 ++ b0) = .error (.unwrittenByte (s.pc.toNat + k)) :=
      State.instruction_unwritten (add_sub_cancel_right s.pc 6) hw he hb h hk2 hk6 hkind
    rw [State.fetch_written hw he (by omega) h1 h0]
    simp only [executeWord, hkind, OpKind.width, hi]

/-- A run that no test stops executes the next instruction, and faults when that does (70_reset R316). -/
theorem runIteration_fault {f : Fault} (hs : s.stopRequested = false) (hbp : s.pc ∉ s.breakpoints)
    (hend : s.pc.toNat < s.loadAddress.toNat + s.programSize) (h : executeNext s = .fault f) :
    runIteration s = .fault f := by
  unfold runIteration
  rw [if_neg (by simp [hs]), if_neg (by simpa using hbp), if_neg (by omega), h]

/-- `skip()` of an idle machine faults when the opcode word at `pc` has an unwritten byte (70_reset R314). -/
theorem hostSkip_unwritten (hw : s.cfg.wf = true) (hr : s.runState = .idle) (he : s.pc.getLsbD 0 = false)
    (hb : s.pc.toNat + 2 ≤ s.cfg.memSize) (h : FirstUnwritten s.mem s.pc.toNat k) (hk : k < 2) :
    hostAct .skip s = .fault (.unwrittenByte (s.pc.toNat + k)) := by
  have ha : hostAct .skip s = skipNext s := by simp [hostAct, hw, hostSkip, hr]
  rw [ha, skipNext, State.fetch_unwritten hw he hb h hk]

end

/-- Settles O28: a load by its read, a store and `div` by their hook, a step and a skip by the fetch. -/
theorem unwrittenBytesFault : Obligations.UnwrittenBytesFault := by
  unfold Obligations.UnwrittenBytesFault
  refine ⟨?load, ?store, ?div, ?fetch⟩
  case load =>
    intro i s w ea b k hi ho hk hnone hbefore
    rw [exec_of_loadOperand hi]
    exact State.loadInto_unwritten ho hk ⟨hnone, hbefore⟩
  case store =>
    intro i s w ea b hi ho hh
    rw [exec_of_storeOperand hi]
    exact State.memWrite_faults ho hh
  case div =>
    intro s a b hw hm hh
    rw [exec_div_of_gpu a b hm]
    have ho := State.remainAddr_inBounds (s := s.setX b (divQuotient (s.x b) (s.x a))) (by simpa using hw)
    rw [State.setX_cfg] at ho
    simpa using State.memWrite_faults ho (mt (State.hookReady_setX s b _ _ _ _).1 hh)
  case fetch =>
    intro s k hw he hb hnone hbefore hk
    have h : FirstUnwritten s.mem s.pc.toNat k := ⟨hnone, hbefore⟩
    have hx := executeNext_unwritten hw he hb h hk
    refine ⟨fun hr => ?_, fun hr hs hbp hend => ?_, fun hr hk2 => ?_⟩
    · rw [step_of_idle hw hr, hx]
    · rw [step_of_running hw hr, runIteration_fault hs hbp hend hx]
    · exact hostSkip_unwritten hw hr he (by omega) h hk2

end Sys2Proof.Machine
end

/-! SUPPORT. Data accesses at a misaligned address and outside memory, the bytes a write leaves, and the fetch of a `movei`
at the end of memory (20_memory R62 to R73). -/

section
namespace Sys2Proof.Machine

/-! ### Misaligned accesses -/

theorem State.noteAlignment_of_aligned {s : State} {w : Width} {addr : Long} (h : addr.toNat % widthBytes w = 0) :
    s.noteAlignment w addr = s := by
  rw [State.noteAlignment, if_neg]
  simp [alignDown_of_aligned h]

/-- The masked address makes no alignment report of its own. -/
@[simp] theorem State.noteAlignment_alignDown (s : State) (w : Width) (addr : Long) :
    s.noteAlignment w (alignDown w addr) = s := by
  simp [State.noteAlignment]

theorem State.noteAlignment_of_suppressed {s : State} {w : Width} {addr : Long} (h : s.cfg.suppressAlignWarn = true) :
    s.noteAlignment w addr = s := by
  simp [State.noteAlignment, h]

theorem State.noteAlignment_of_misaligned {s : State} {w : Width} {addr : Long}
    (ha : addr.toNat % widthBytes w ≠ 0) (h : s.cfg.suppressAlignWarn = false) :
    s.noteAlignment w addr = s.report (.alignmentWarning addr (widthBytes w)) :=
  if_pos ⟨(alignDown_ne_iff w addr).2 ha, h⟩

/-- A read is the read at the masked address after the alignment report, if any (20_memory R64). -/
theorem State.memRead_masked (s : State) (w : Width) (addr : Long) :
    s.memRead w addr = (s.noteAlignment w addr).memRead w (alignDown w addr) := by
  simp only [State.memRead, State.noteAlignment_alignDown, alignDown_idem]

/-- A write is the write at the masked address after the alignment report, if any (20_memory R64). -/
theorem State.memWrite_masked (s : State) (w : Width) (addr v : Long) :
    s.memWrite w addr v = (s.noteAlignment w addr).memWrite w (alignDown w addr) v := by
  simp only [State.memWrite, State.noteAlignment_alignDown, alignDown_idem]

/-- Settles O23: every access is the one at the masked address on the state the alignment report leaves. -/
theorem misalignedAccessIsMasked : Obligations.MisalignedAccessIsMasked := by
  unfold Obligations.MisalignedAccessIsMasked
  intro s w addr v
  refine ⟨alignDown_toNat w addr, ?aligned, ?suppressed, ?reported⟩
  case aligned => exact fun ha => ⟨alignDown_of_aligned ha, State.noteAlignment_of_aligned ha⟩
  case suppressed =>
    intro _ hs
    rw [s.memRead_masked, s.memWrite_masked, State.noteAlignment_of_suppressed hs]
    exact ⟨rfl, rfl⟩
  case reported =>
    intro ha hs
    rw [s.memRead_masked, s.memWrite_masked, State.noteAlignment_of_misaligned ha hs]
    exact ⟨rfl, rfl⟩

/-! ### Accesses outside memory -/

/-- The bounds rule, written out (20_memory R65). -/
theorem State.outOfBounds_iff (s : State) (a : Long) (n : Nat) :
    s.outOfBounds a n = true ↔ a.getLsbD 31 = true ∨ s.cfg.memSize < a.toNat + n := by
  simp only [State.outOfBounds, Bool.or_eq_true, decide_eq_true_eq]

/-- Settles O24: the out-of-bounds branch of `MemRead` and of `MemWrite`. -/
theorem outOfBoundsAccessIsReported : Obligations.OutOfBoundsAccessIsReported := by
  unfold Obligations.OutOfBoundsAccessIsReported
  intro s w addr v h
  have ho := (s.outOfBounds_iff _ _).2 h
  rw [State.memRead_eq, State.memWrite_eq, if_pos ho, if_pos ho]
  exact ⟨rfl, rfl⟩

/-! ### What a write leaves in memory -/

/-- The bytes a store of a width writes are, big-endian, the value truncated to the width (20_memory R62, R71). -/
theorem bigEndian_storeBytes (w : Width) (v : Long) :
    bigEndian (storeBytes w v) = v.toNat % 2 ^ (8 * widthBytes w) := by
  have hv := v.isLt
  cases w <;>
    simp only [bigEndian, storeBytes, widthBytes, List.foldl_cons, List.foldl_nil, BitVec.extractLsb'_toNat,
      Nat.shiftRight_eq_div_pow] <;>
    omega

/-- Byte `k` of the operand after a write in bounds that answers is byte `k` of what it stores (20_memory R71). -/
theorem State.memWrite_read {s t : State} {w : Width} {addr v : Long} (h : s.memWrite w addr v = .ok t)
    (ho : s.outOfBounds (alignDown w addr) (widthBytes w) = false) {k : Nat} (hk : k < widthBytes w) :
    t.mem.read ((alignDown w addr).toNat + k) = (storeBytes w v)[k]? := by
  rw [State.memWrite_mem h, if_neg (by simp [ho]), Memory.read_writeBytes, storeBytes_length, if_pos (by omega),
    Nat.add_sub_cancel_left]

/-- A write leaves the bounds rule as it was. -/
theorem State.memWrite_outOfBounds {s t : State} {w : Width} {addr v : Long} (h : s.memWrite w addr v = .ok t)
    (a : Long) (n : Nat) : t.outOfBounds a n = s.outOfBounds a n := by
  obtain ⟨⟨hcfg, -⟩, -⟩ := State.memWrite_frame h
  simp only [State.outOfBounds, hcfg]

/-- Settles O25: the bytes of a write are those of `storeBytes`, and a read assembles them big-endian. -/
theorem storedValueIsReadBack : Obligations.StoredValueIsReadBack := by
  unfold Obligations.StoredValueIsReadBack
  intro s t w addr v h ho
  refine ⟨?value, fun k hk => (State.memWrite_read h ho hk).trans (storeBytes_getElem w v k hk)⟩
  have hread : ∀ k : Nat, ∀ hk : k < (storeBytes w v).length,
      t.mem.read ((alignDown w addr).toNat + k) = some (storeBytes w v)[k] := fun k hk => by
    rw [State.memWrite_read h ho (storeBytes_length w v ▸ hk), List.getElem?_eq_getElem hk]
  obtain ⟨hval, -⟩ := t.readWidth_of_bytes w _ (storeBytes w v) (storeBytes_length w v) hread
  rw [State.memRead_eq, if_neg (by simp [State.memWrite_outOfBounds h, ho]), hval]
  refine ⟨_, _, rfl, ?_⟩
  have hle : v.toNat % 2 ^ (8 * widthBytes w) ≤ v.toNat := Nat.mod_le _ _
  have hv := v.isLt
  rw [BitVec.toNat_ofNat, bigEndian_storeBytes, Nat.mod_eq_of_lt (by omega)]

/-! ### A `movei` whose second extension word is beyond memory -/

/-- 00_scope R5: the buffer is a whole number of longs. -/
theorem Config.memSize_mod {c : Config} (h : c.wf = true) : c.memSize % 4 = 0 := by
  simp only [Config.wf, Bool.and_eq_true, beq_iff_eq] at h
  obtain ⟨-, hmod⟩ := h
  exact hmod

theorem even_iff (a : Long) : a.getLsbD 0 = false ↔ a.toNat % 2 = 0 := by
  simp only [BitVec.getLsbD, Nat.testBit_zero, decide_eq_false_iff_not]
  omega

/-- A fetch out of bounds gives the low half of the sentinel and one report (20_memory R72, D16). -/
theorem State.fetch_outOfBounds {s : State} {a : Long} (he : a.getLsbD 0 = false) (hb : s.cfg.memSize < a.toNat + 2) :
    s.fetch a = .ok (0xFFFF, s.report (.outOfBounds a 2)) := by
  rw [State.fetch_eq s a he, if_pos ((s.outOfBounds_iff a 2).2 (.inr hb))]
  rfl

theorem State.fetch_cfg {s t : State} {a : Long} {w : Word} (h : s.fetch a = .ok (w, t)) : t.cfg = s.cfg := by
  obtain ⟨rs, rfl⟩ := State.fetch_frame h
  rfl

theorem decodeWord_movei {m : OpcodeMap} {w : Word} (h : kindOfWord m w = .movei) (imm : Long) :
    decodeWord m w imm = .movei (aField w) (bField w) imm := by
  rw [decodeWord, h]
  rfl

theorem exec_movei (a : Field) (b : Reg) (imm : Long) (s : State) : exec (.movei a b imm) s = .next (s.setX b imm) := rfl

/-- One executed `movei`: three fetches, `pc` past them, and the immediate in `x[B]` (20_memory R73, 44_move R212,
45_control R220). -/
theorem executeNext_movei {s s0 s1 s2 : State} {w w1 w2 : Word} (h0 : s.fetch s.pc = .ok (w, s0))
    (hk : kindOfWord s0.cfg.opcodeMap w = .movei) (h1 : (s0.advance 6).fetch (s0.pc + 2) = .ok (w1, s1))
    (h2 : s1.fetch (s0.pc + 4) = .ok (w2, s2)) :
    executeNext s = .next ((s2.setX (bField w) (immediate s2.cfg.moveiWordOrder w1 w2)).commitDelaySlot false) := by
  have hpc : (s0.advance 6).pc - 6 = s0.pc := add_sub_cancel_right s0.pc 6
  have hk2 : kindOfWord s2.cfg.opcodeMap w = .movei := by rw [State.fetch_cfg h2, State.fetch_cfg h1]; exact hk
  have hi := State.instruction_of_movei (s := s0.advance 6) hk (hpc.symm ▸ h1) (hpc.symm ▸ h2)
  simp only [executeNext, h0, executeWord, hk, OpKind.width, hi, decodeWord_movei hk2, execAndCommit, exec_movei,
    Instr.isBranch, Instr.kind, OpKind.isBranch]

theorem State.commitDelaySlot_of_not_pending {s : State} (isBranch : Bool) (h : s.ds.pending = false) :
    s.commitDelaySlot isBranch = s := by
  rw [State.commitDelaySlot_eq, if_pos (.inr h)]

/-- A `movei` in the last long of memory takes `0xFFFF` for its second extension word (20_memory R73, 44_move R212). -/
theorem executeNext_movei_atEnd {s : State} {h l eh el : Byte} (hw : s.cfg.wf = true) (hp : s.ds.pending = false)
    (hend : s.pc.toNat + 4 = s.cfg.memSize) (hh : s.mem.read s.pc.toNat = some h)
    (hl : s.mem.read (s.pc.toNat + 1) = some l) (heh : s.mem.read (s.pc.toNat + 2) = some eh)
    (hel : s.mem.read (s.pc.toNat + 3) = some el) (hk : kindOfWord s.cfg.opcodeMap (h ++ l) = .movei) :
    executeNext s = .next (((s.advance 6).report (.outOfBounds (s.pc + 4) 2)).setX (bField (h ++ l))
      (immediate s.cfg.moveiWordOrder (eh ++ el) 0xFFFF)) := by
  have hsize := Config.memSize_le hw
  have hmod := Config.memSize_mod hw
  have he : s.pc.getLsbD 0 = false := (even_iff _).2 (by omega)
  obtain ⟨ha2, he2⟩ : (s.pc + 2).toNat = s.pc.toNat + 2 ∧ (s.pc + 2).getLsbD 0 = false :=
    pc_add_even (n := 2) he (by decide) (by omega)
  obtain ⟨ha4, he4⟩ : (s.pc + 4).toNat = s.pc.toNat + 4 ∧ (s.pc + 4).getLsbD 0 = false :=
    pc_add_even (n := 4) he (by decide) (by omega)
  have h0 : s.fetch s.pc = .ok (h ++ l, s) := State.fetch_written hw he (by omega) hh hl
  have h1 : (s.advance 6).fetch (s.pc + 2) = .ok (eh ++ el, s.advance 6) :=
    State.fetch_written hw he2 (by rw [ha2, State.advance_cfg]; omega) (ha2 ▸ heh) (by rw [ha2]; exact hel)
  have h2 : (s.advance 6).fetch (s.pc + 4) = .ok (0xFFFF, (s.advance 6).report (.outOfBounds (s.pc + 4) 2)) :=
    State.fetch_outOfBounds he4 (by rw [ha4, State.advance_cfg]; omega)
  rw [executeNext_movei h0 hk h1 h2, State.commitDelaySlot_of_not_pending false (by simpa using hp)]
  rfl

/-- Settles O9: the step is that `movei`, whose register write and report are all it does besides moving `pc`. -/
theorem extensionWordBeyondMemoryIsAllOnes : Obligations.ExtensionWordBeyondMemoryIsAllOnes := by
  unfold Obligations.ExtensionWordBeyondMemoryIsAllOnes
  rintro s b h l eh el hw hr hp hend hh hl heh hel hk rfl
  refine ⟨_, (step_of_idle hw hr).trans (executeNext_movei_atEnd hw hp hend hh hl heh hel hk), ?value, ?pc, ?reports,
    ?regs, ?frame⟩
  case value =>
    rw [State.reg_setX, if_pos ⟨rfl, rfl⟩]
    cases s.cfg.moveiWordOrder <;> rfl
  case pc => simp
  case reports => simp
  case regs => exact fun k i hne => (State.reg_setReg_other _ _ hne).trans (by simp)
  case frame => simp [FlagsSame, MemSame]

end Sys2Proof.Machine
end

/-! SUPPORT. The encoding: the three fields of a word, what the decoder makes of each kind of word, the opcode an opcode
map gives an instruction, and that decoding and encoding invert each other (30_encoding). -/

section
namespace Sys2Proof

open Sys2Proof.Machine

/-! ### The fields of an instruction word (30_encoding R101) -/

theorem opField_toNat (w : Word) : (opField w).toNat = w.toNat / 1024 := by
  simp only [opField, BitVec.extractLsb'_toNat, Nat.shiftRight_eq_div_pow]
  omega

theorem aField_toNat (w : Word) : (aField w).toNat = w.toNat / 32 % 32 := by
  simp only [aField, BitVec.extractLsb'_toNat, Nat.shiftRight_eq_div_pow]

theorem bField_toNat (w : Word) : (bField w).toNat = w.toNat % 32 := by
  simp only [bField, BitVec.extractLsb'_toNat, Nat.shiftRight_zero]

theorem wordOfFields_toNat (op : Opcode) (a b : Field) :
    (wordOfFields op a b).toNat = op.toNat * 1024 + a.toNat * 32 + b.toNat := by
  simp only [wordOfFields, BitVec.toNat_append]
  rw [← Nat.shiftLeft_add_eq_or_of_lt a.isLt, ← Nat.shiftLeft_add_eq_or_of_lt b.isLt, Nat.shiftLeft_eq,
    Nat.shiftLeft_eq]
  omega

/-- A word is made by exactly one triple of fields. -/
theorem wordOfFields_eq_iff (op : Opcode) (a b : Field) (w : Word) :
    wordOfFields op a b = w ↔ op = opField w ∧ a = aField w ∧ b = bField w := by
  simp only [← BitVec.toNat_inj, wordOfFields_toNat, opField_toNat, aField_toNat, bField_toNat]
  omega

@[simp] theorem wordOfFields_fields (w : Word) : wordOfFields (opField w) (aField w) (bField w) = w :=
  (wordOfFields_eq_iff _ _ _ w).2 ⟨rfl, rfl, rfl⟩

section
variable (op : Opcode) (a b : Field)

@[simp] theorem opField_wordOfFields : opField (wordOfFields op a b) = op := by
  obtain ⟨h, -, -⟩ := (wordOfFields_eq_iff op a b _).1 rfl
  exact h.symm

@[simp] theorem aField_wordOfFields : aField (wordOfFields op a b) = a := by
  obtain ⟨-, h, -⟩ := (wordOfFields_eq_iff op a b _).1 rfl
  exact h.symm

@[simp] theorem bField_wordOfFields : bField (wordOfFields op a b) = b := by
  obtain ⟨-, -, h⟩ := (wordOfFields_eq_iff op a b _).1 rfl
  exact h.symm

end

/-- Settles O1: the document's formulas as quotients and remainders, and the uniqueness of the triple. -/
theorem fieldsOfAnInstructionWord : Obligations.FieldsOfAnInstructionWord := by
  unfold Obligations.FieldsOfAnInstructionWord
  intro w
  have hmask (n : Nat) : n &&& 31 = n % 32 := Nat.and_two_pow_sub_one_eq_mod n 5
  refine ⟨?op, ?a, ?b, ?sum, fun op a b => wordOfFields_eq_iff op a b w⟩
  case op => rw [opField_toNat, Nat.shiftRight_eq_div_pow]
  case a => rw [aField_toNat, hmask, Nat.shiftRight_eq_div_pow]
  case b => rw [bField_toNat, hmask]
  case sum => rw [← wordOfFields_toNat, wordOfFields_fields]

/-! ### The instruction of a kind (30_encoding R110 to R112) -/

theorem field_two_le_iff (a : Field) : 2 ≤ a.toNat ↔ a ≠ 0 ∧ a ≠ 1 := by
  simp only [ne_eq, ← BitVec.toNat_inj, BitVec.ofNat_eq_ofNat, BitVec.toNat_ofNat]
  omega

/-- A kind and a field `A` that name no instruction: the opcode selects none, or it selects the pair `pack`/`unpack` and `A`
neither of the two (30_encoding R111, R112). -/
def OpKind.Unrecognised (k : OpKind) (a : Field) : Prop := k = .unknown ∨ k = .packUnpack ∧ 2 ≤ a.toNat

theorem OpKind.Unrecognised.ne_movei {k : OpKind} {a : Field} (h : k.Unrecognised a) : k ≠ .movei := by
  rintro rfl
  rcases h with h | ⟨h, -⟩ <;> cases h

/-- What the fields of a word make: the UNKNOWN that carries them, or an instruction of the kind selected, with the
operand fields of the word (30_encoding R116). -/
theorem Instr.ofKind_cases (k : OpKind) (op : Opcode) (a b : Field) (imm : Long) :
    Instr.ofKind k op a b imm = .unknown op a b
      ∨ k ≠ .unknown ∧ (Instr.ofKind k op a b imm).rawOpcode = none ∧ (Instr.ofKind k op a b imm).kind = k
        ∧ (Instr.ofKind k op a b imm).fieldA = a ∧ (Instr.ofKind k op a b imm).fieldB = b := by
  cases k with
  | unknown => exact .inl rfl
  | packUnpack =>
    by_cases h0 : a = 0
    · subst h0
      exact .inr ⟨nofun, rfl, rfl, rfl, rfl⟩
    · by_cases h1 : a = 1
      · subst h1
        exact .inr ⟨nofun, rfl, rfl, rfl, rfl⟩
      · exact .inl (by rw [Instr.ofKind, if_neg h0, if_neg h1])
  | _ => exact .inr ⟨nofun, rfl, rfl, rfl, rfl⟩

/-- The fields make an UNKNOWN, which carries them, when they name no instruction (30_encoding R112, R116). -/
theorem Instr.ofKind_eq_unknown_iff (k : OpKind) (op op' : Opcode) (a b a' b' : Field) (imm : Long) :
    Instr.ofKind k op a b imm = .unknown op' a' b' ↔ (op = op' ∧ a = a' ∧ b = b') ∧ k.Unrecognised a := by
  rw [OpKind.Unrecognised]
  cases k with
  | packUnpack =>
    rw [field_two_le_iff, Instr.ofKind]
    split
    · next h0 => simp [h0]
    · next h0 =>
      split
      · next h1 => simp [h1]
      · next h1 => simpa using fun _ _ _ => ⟨h0, h1⟩
  | _ => simp [Instr.ofKind]

/-- An instruction that is no UNKNOWN is what its own kind and fields make. -/
theorem Instr.ofKind_self {i : Instr} {imm : Long} (hr : i.rawOpcode = none)
    (himm : ∀ a b v, i = .movei a b v → v = imm) (op : Opcode) :
    Instr.ofKind i.kind op i.fieldA i.fieldB imm = i := by
  cases i with
  | movei a b v => rw [himm a b v rfl]; rfl
  | unknown op a b => cases hr
  | _ => rfl

theorem Instr.unknown_of_rawOpcode {i : Instr} {op : Opcode} (h : i.rawOpcode = some op) :
    ∃ a b, i = .unknown op a b := by
  cases i with
  | unknown op' a b => cases h; exact ⟨a, b, rfl⟩
  | _ => cases h

theorem Instr.movei_of_kind {i : Instr} (h : i.kind = .movei) : ∃ a b v, i = .movei a b v := by
  cases i with
  | movei a b v => exact ⟨a, b, v, rfl⟩
  | _ => cases h

/-! ### The opcode that a map gives an instruction (30_encoding R110, R116) -/

section
variable {m : OpcodeMap} {i : Instr}

theorem Instr.opcode_of_rawOpcode_none (hr : i.rawOpcode = none) :
    i.opcode m = BitVec.ofNat 6 (m.toList.idxOf i.kind) := by
  rw [Instr.opcode, hr]

theorem Instr.wf_iff_of_rawOpcode_none (hr : i.rawOpcode = none) : i.wf m = true ↔ i.kind ∈ m.toList := by
  cases i with
  | unknown op a b => cases hr
  | _ => exact List.contains_iff_mem

theorem Instr.wf_unknown_iff (m : OpcodeMap) (op : Opcode) (a b : Field) :
    (Instr.unknown op a b).wf m = true ↔ (m.select op).Unrecognised a := by
  rw [Instr.wf, OpKind.Unrecognised]
  cases m.select op <;> simp

theorem OpcodeMap.select_eq_getElem (m : OpcodeMap) (op : Opcode) :
    m.select op = m.toList[op.toNat]'(by simpa using op.isLt) := by
  simp [OpcodeMap.select]

/-- The first opcode value that selects a kind selects it. -/
theorem OpcodeMap.select_idxOf {k : OpKind} (h : k ∈ m.toList) :
    m.select (BitVec.ofNat 6 (m.toList.idxOf k)) = k := by
  have hlt : m.toList.idxOf k < 64 := by simpa using List.idxOf_lt_length_iff.2 h
  simp [OpcodeMap.select_eq_getElem, Nat.mod_eq_of_lt hlt]

/-- In a map without repeats the opcode value that selects a kind is the first that does. -/
theorem OpcodeMap.idxOf_select (h : m.noRepeats = true) {op : Opcode} (hk : m.select op ≠ .unknown) :
    m.toList.idxOf (m.select op) = op.toNat := by
  have hlen : op.toNat < m.toList.length := by simpa using op.isLt
  have hpair := List.pairwise_iff_getElem.1 (List.pairwise_filter.1 (of_decide_eq_true h))
  rw [OpcodeMap.select_eq_getElem] at hk ⊢
  have hfirst : m.toList.idxOf m.toList[op.toNat] < m.toList.length :=
    List.idxOf_lt_length_iff.2 (List.getElem_mem hlen)
  by_contra hne
  rcases Nat.lt_or_gt_of_ne hne with hlt | hlt
  · exact hpair _ _ hfirst hlen hlt (by simpa using hk) (by simpa using hk) (by simp)
  · exact hpair _ _ hlen hfirst hlt (by simpa using hk) (by simpa using hk) (by simp)

end

/-! ### Words: what they decode to, and re-encoding it (30_encoding R110 to R112, R116) -/

/-- A word decodes to the UNKNOWN of its own fields, when the map leaves it unrecognised. -/
theorem decodeWord_eq_unknown_iff (m : OpcodeMap) (w : Word) (imm : Long) (op : Opcode) (a b : Field) :
    decodeWord m w imm = .unknown op a b
      ↔ (opField w = op ∧ aField w = a ∧ bField w = b) ∧ (kindOfWord m w).Unrecognised (aField w) :=
  Instr.ofKind_eq_unknown_iff ..

theorem kindOfWord_firstWord {m : OpcodeMap} {i : Instr} (h : i.wf m = true) (hr : i.rawOpcode = none) :
    kindOfWord m (i.firstWord m) = i.kind := by
  rw [kindOfWord, Instr.firstWord, opField_wordOfFields, Instr.opcode_of_rawOpcode_none hr]
  exact OpcodeMap.select_idxOf ((Instr.wf_iff_of_rawOpcode_none hr).1 h)

theorem firstWord_unknown (m : OpcodeMap) (op : Opcode) (a b : Field) :
    (Instr.unknown op a b).firstWord m = wordOfFields op a b := rfl

/-- The word of a well-formed UNKNOWN is one that the map leaves unrecognised (30_encoding R111, R112). -/
theorem kindOfWord_firstWord_unknown {m : OpcodeMap} {op : Opcode} {a b : Field}
    (h : (Instr.unknown op a b).wf m = true) :
    (kindOfWord m ((Instr.unknown op a b).firstWord m)).Unrecognised a := by
  rw [firstWord_unknown, kindOfWord, opField_wordOfFields]
  exact (Instr.wf_unknown_iff m op a b).1 h

/-- The word of a well-formed instruction decodes to it, given the immediate of a `movei`. -/
theorem decodeWord_firstWord {m : OpcodeMap} {i : Instr} (h : i.wf m = true) {imm : Long}
    (himm : ∀ a b v, i = .movei a b v → v = imm) : decodeWord m (i.firstWord m) imm = i := by
  cases hr : i.rawOpcode with
  | none =>
    rw [decodeWord, kindOfWord_firstWord h hr, Instr.firstWord, aField_wordOfFields, bField_wordOfFields]
    exact Instr.ofKind_self hr himm _
  | some op =>
    obtain ⟨a, b, rfl⟩ := Instr.unknown_of_rawOpcode hr
    refine (decodeWord_eq_unknown_iff ..).2 ⟨?_, ?_⟩
    · simp [firstWord_unknown]
    · simpa [firstWord_unknown] using kindOfWord_firstWord_unknown h

/-- Settles O2: an UNKNOWN carries the three fields of its word; any other instruction keeps `A` and `B`, and a map
without repeats gives it the opcode value of the word. -/
theorem reencodingRestoresTheWord : Obligations.ReencodingRestoresTheWord := by
  unfold Obligations.ReencodingRestoresTheWord
  intro m w imm hm
  rcases Instr.ofKind_cases (kindOfWord m w) (opField w) (aField w) (bField w) imm with hu | ⟨hne, hr, hk, ha, hb⟩
  · rw [decodeWord, hu]
    exact ⟨wordOfFields_fields w, rfl, rfl⟩
  · have hop : (decodeWord m w imm).opcode m = opField w := by
      rw [decodeWord, Instr.opcode_of_rawOpcode_none hr, hk, kindOfWord, OpcodeMap.idxOf_select hm hne]
      exact BitVec.ofNat_toNat _ _
    refine ⟨?_, ha, hb⟩
    rw [Instr.firstWord, hop, decodeWord, ha, hb, wordOfFields_fields]

/-- The opcode values that the default map leaves without an instruction (92 D3). -/
theorem defaultOpcodeMap_select_unknown : ∀ op : Opcode,
    defaultOpcodeMap.select op = .unknown ↔ op.toNat ∈ [18, 19, 20, 42, 48, 54, 55, 56] := by decide

/-- The opcode value that the default map gives to `pack` and `unpack` (30_encoding R111). -/
theorem defaultOpcodeMap_select_packUnpack : ∀ op : Opcode,
    defaultOpcodeMap.select op = .packUnpack ↔ op.toNat = 63 := by decide

/-- Settles O4: a word is unrecognised by its opcode value, or by `A` beside `pack` and `unpack`. -/
theorem unknownWordsAreExactlyTheUnassigned : Obligations.UnknownWordsAreExactlyTheUnassigned := by
  unfold Obligations.UnknownWordsAreExactlyTheUnassigned
  intro w imm
  simp only [decodeWord_eq_unknown_iff, OpKind.Unrecognised, kindOfWord, defaultOpcodeMap_select_unknown,
    defaultOpcodeMap_select_packUnpack, opField_toNat, aField_toNat, exists_and_right, exists_and_left, exists_eq',
    and_true, true_and]

/-! ### Bytes: the decoder and the encoder (30_encoding R100, R103, R104, R115) -/

theorem OpKind.width_of_ne_movei {k : OpKind} (h : k ≠ .movei) : k.width = 2 := by
  cases k with
  | movei => exact absurd rfl h
  | _ => rfl

section
variable {m : OpcodeMap} {order : WordOrder}

theorem decode_of_ne_movei {b0 b1 : Byte} (h : kindOfWord m (b0 ++ b1) ≠ .movei) (rest : List Byte) :
    decode m order (b0 :: b1 :: rest) = .ok (decodeWord m (b0 ++ b1) 0, rest) := by
  simp only [decode]

theorem decode_of_movei {b0 b1 : Byte} (h : kindOfWord m (b0 ++ b1) = .movei) (c0 c1 d0 d1 : Byte) (rest : List Byte) :
    decode m order (b0 :: b1 :: c0 :: c1 :: d0 :: d1 :: rest)
      = .ok (decodeWord m (b0 ++ b1) (immediate order (c0 ++ c1) (d0 ++ d1)), rest) := by
  rw [decode, h]

theorem decode_of_movei_truncated {b0 b1 : Byte} (h : kindOfWord m (b0 ++ b1) = .movei) {rest : List Byte}
    (hlen : rest.length < 4) : decode m order (b0 :: b1 :: rest) = .error .truncatedImmediate := by
  match rest, hlen with
  | [], _ | [_], _ | [_, _], _ | [_, _, _], _ => simp only [decode, h]

/-- The halves of a word or of a long are it, the more significant first (20_memory R62, 30_encoding R104). -/
theorem append_halves {n : Nat} (v : BitVec (n + n)) : v.extractLsb' n n ++ v.extractLsb' 0 n = v := by
  rw [BitVec.extractLsb'_append_extractLsb'_eq_extractLsb' (by omega)]
  exact BitVec.extractLsb'_eq_self

theorem append_bytes_of_word (w : Word) : w.extractLsb' 8 8 ++ w.extractLsb' 0 8 = w := append_halves (n := 8) w

/-- The immediate that the two extension words of a `movei` assemble to is its own (30_encoding R104). -/
theorem extensionWords_movei (order : WordOrder) (a b : Field) (v : Long) :
    ∃ w1 w2, (Instr.movei a b v).extensionWords order = [w1, w2] ∧ immediate order w1 w2 = v := by
  have hv : v.extractLsb' 16 16 ++ v.extractLsb' 0 16 = v := append_halves (n := 16) v
  cases order with
  | highFirst => exact ⟨_, _, rfl, hv⟩
  | lowFirst => exact ⟨_, _, rfl, hv⟩

theorem extensionWords_of_ne_movei (order : WordOrder) {i : Instr} (h : i.kind ≠ .movei) :
    i.extensionWords order = [] := by
  cases i with
  | movei a b v => exact absurd rfl h
  | _ => rfl

/-- A word that selects no `movei` is an instruction by itself. -/
theorem decode_bytesOfWords_of_ne_movei {w : Word} (h : kindOfWord m w ≠ .movei) (rest : List Byte) :
    decode m order (bytesOfWords [w] ++ rest) = .ok (decodeWord m w 0, rest) := by
  have hd := decode_of_ne_movei (order := order) ((append_bytes_of_word w).symm ▸ h) rest
  rwa [append_bytes_of_word] at hd

/-- A word that selects `movei` takes the two words after it as its immediate (30_encoding R104). -/
theorem decode_bytesOfWords_of_movei {w : Word} (h : kindOfWord m w = .movei) (w1 w2 : Word) (rest : List Byte) :
    decode m order (bytesOfWords [w, w1, w2] ++ rest) = .ok (decodeWord m w (immediate order w1 w2), rest) := by
  have hd := decode_of_movei (order := order) ((append_bytes_of_word w).symm ▸ h) (w1.extractLsb' 8 8)
    (w1.extractLsb' 0 8) (w2.extractLsb' 8 8) (w2.extractLsb' 0 8) rest
  rwa [append_bytes_of_word, append_bytes_of_word, append_bytes_of_word] at hd

/-- The word of a well-formed instruction selects `movei` exactly when the instruction is one. -/
theorem kindOfWord_firstWord_eq_movei_iff {i : Instr} (h : i.wf m = true) :
    kindOfWord m (i.firstWord m) = .movei ↔ i.kind = .movei := by
  cases hr : i.rawOpcode with
  | none => rw [kindOfWord_firstWord h hr]
  | some op =>
    obtain ⟨a, b, rfl⟩ := Instr.unknown_of_rawOpcode hr
    exact iff_of_false (kindOfWord_firstWord_unknown h).ne_movei nofun

end

/-- Settles O6: the decoder by the kind of the first word; the length is that of the kind. -/
theorem lengthIsSixForMoveiElseTwo : Obligations.LengthIsSixForMoveiElseTwo := by
  unfold Obligations.LengthIsSixForMoveiElseTwo
  intro m order b0 b1 rest
  refine ⟨fun (hk : kindOfWord m (b0 ++ b1) ≠ .movei) => ⟨_, decode_of_ne_movei hk rest, ?_⟩,
    fun (hk : kindOfWord m (b0 ++ b1) = .movei) hlen => ?_, fun hk hlen => decode_of_movei_truncated hk hlen⟩
  · rw [decodeWord_width]
    exact OpKind.width_of_ne_movei hk
  · match rest, hlen with
    | c0 :: c1 :: d0 :: d1 :: rest, _ =>
      exact ⟨_, decode_of_movei hk c0 c1 d0 d1 rest, by rw [decodeWord_width, hk]; rfl⟩

/-- Settles O3: the first word decodes to the instruction, and the words after it to the immediate if it is a
`movei`. -/
theorem decodingInvertsEncoding : Obligations.DecodingInvertsEncoding := by
  unfold Obligations.DecodingInvertsEncoding
  intro m order i rest h
  by_cases hk : i.kind = .movei
  · obtain ⟨a, b, v, rfl⟩ := Instr.movei_of_kind hk
    obtain ⟨w1, w2, hext, himm⟩ := extensionWords_movei order a b v
    have hself : decodeWord m ((Instr.movei a b v).firstWord m) v = .movei a b v :=
      decodeWord_firstWord h (by rintro _ _ _ ⟨⟩; rfl)
    rw [encode, hext, decode_bytesOfWords_of_movei ((kindOfWord_firstWord_eq_movei_iff h).2 hk), himm, hself]
  · have hself : decodeWord m (i.firstWord m) 0 = i :=
      decodeWord_firstWord h (by rintro _ _ _ rfl; exact absurd rfl hk)
    rw [encode, extensionWords_of_ne_movei order hk,
      decode_bytesOfWords_of_ne_movei (mt (kindOfWord_firstWord_eq_movei_iff h).1 hk), hself]

/-- Settles O5: the ten words, by running the decoder on each. -/
theorem writtenWordsDecode : Obligations.WrittenWordsDecode := by
  unfold Obligations.WrittenWordsDecode
  decide

end Sys2Proof

namespace Sys2Proof.Machine

/-! ### An UNKNOWN word in the cycle (45_control R230) -/

theorem exec_unknown (op : Opcode) (a b : Field) (s : State) :
    exec (.unknown op a b) s = .next (s.report (.unknownOpcode (wordOfFields op a b) (s.pc - 2))) := rfl

/-- One executed UNKNOWN: `pc` past the word, the report of the word at its own address, the commit. -/
theorem executeNext_unknown {s t : State} {w : Word} (h0 : s.fetch s.pc = .ok (w, t))
    (hu : (kindOfWord t.cfg.opcodeMap w).Unrecognised (aField w)) :
    executeNext s = .next (((t.advance 2).report (.unknownOpcode w t.pc)).commitDelaySlot false) := by
  have hd : decodeWord t.cfg.opcodeMap w 0 = .unknown (opField w) (aField w) (bField w) :=
    (decodeWord_eq_unknown_iff ..).2 ⟨⟨rfl, rfl, rfl⟩, hu⟩
  have hi : (t.advance 2).instruction w = .ok (.unknown (opField w) (aField w) (bField w), t.advance 2) :=
    hd ▸ State.instruction_of_word (s := t.advance 2) hu.ne_movei
  have hpc : (t.advance 2).pc - 2 = t.pc := add_sub_cancel_right t.pc 2
  simp only [executeNext, h0, executeWord, OpKind.width_of_ne_movei hu.ne_movei, hi, execAndCommit, exec_unknown,
    wordOfFields_fields, hpc, Instr.isBranch, Instr.kind, OpKind.isBranch]

/-- Settles O8: the fetch gives the sentinel word and its report, and that word, `A` being 31, is an UNKNOWN. -/
theorem fetchBeyondMemoryIsReportedTwice : Obligations.FetchBeyondMemoryIsReportedTwice := by
  unfold Obligations.FetchBeyondMemoryIsReportedTwice
  intro s hw hr he hp hb hsel
  have hend : s.cfg.memSize < s.pc.toNat + 2 := by
    have hsize := Config.memSize_le hw
    rw [sign_bit, decide_eq_true_eq] at hb
    omega
  have hu : (kindOfWord s.cfg.opcodeMap 0xFFFF).Unrecognised (aField 0xFFFF) := .inr ⟨hsel, by decide⟩
  rw [step_of_idle hw hr, executeNext_unknown (State.fetch_outOfBounds he hend) hu,
    State.commitDelaySlot_of_not_pending false (by simpa using hp)]
  simp [State.report, State.advance]

/-! ### Effective addresses (30_encoding R109) -/

/-- Settles O31: a sum of two longs is the sum modulo 2^32, whether or not the offset is reduced before. -/
theorem effectiveAddressesWrap : Obligations.EffectiveAddressesWrap := by
  unfold Obligations.EffectiveAddressesWrap
  intro s base a
  refine ⟨?_, BitVec.toNat_add _ _⟩
  rw [State.offsetAddr, longOffset, quick_eq, BitVec.toNat_add, BitVec.toNat_ofNat, Nat.add_mod_mod]

end Sys2Proof.Machine
end

/-! SUPPORT. The arithmetic instructions (40_arithmetic): what a register write and the flags after it leave unchanged, the
values of the 32-bit operations, and what a write to memory and its hook leave, which `div` in GPU mode goes through. -/

section
namespace Sys2Proof.Machine

/-! ### What a register write and the flags after it leave unchanged (40_arithmetic R130) -/

section
variable {s u : State} {k : Bool} {i : Reg}

theorem OnlyRegAndFlags.setZN (h : OnlyRegAndFlags s u k i) (v : Long) : OnlyRegAndFlags s (u.setZN v) k i := by
  obtain ⟨hregs, hmem, hspecials⟩ := h
  exact ⟨fun k' i' hne => (u.reg_setZN v k' i').trans (hregs k' i' hne), hmem, hspecials⟩

theorem OnlyRegAndFlags.setC (h : OnlyRegAndFlags s u k i) (c : Bool) : OnlyRegAndFlags s (u.setC c) k i := by
  obtain ⟨hregs, hmem, hspecials⟩ := h
  exact ⟨fun k' i' hne => (u.reg_setC c k' i').trans (hregs k' i' hne), hmem, hspecials⟩

end

section
variable (s : State) (b : Reg) (v : Long) (c : Bool)

theorem State.reg_setX_same : (s.setX b v).reg s.bank b = v := State.reg_setReg_same s s.bank b v

theorem State.setX_regsSameBut : RegsSameBut s (s.setX b v) s.bank b :=
  fun _ _ hne => State.reg_setReg_other s v hne

theorem State.setX_flagsSame : FlagsSame s (s.setX b v) := by simp [FlagsSame]

theorem State.setX_onlyReg : OnlyReg s (s.setX b v) s.bank b :=
  ⟨⟨s.setX_regsSameBut b v, by simp [MemSame], by simp [SpecialsSame, HostStateSame]⟩, s.setX_flagsSame b v⟩

theorem State.resultZN_frame : OnlyRegAndFlags s (s.resultZN b v) s.bank b :=
  OnlyRegAndFlags.setZN (s.setX_onlyReg b v).1 v

@[simp] theorem State.resultZN_reg : (s.resultZN b v).reg s.bank b = v := s.reg_setX_same b v

@[simp] theorem State.resultZN_c : (s.resultZN b v).c = s.c := s.setX_c b v

theorem State.resultZN_flags : ZNFrom (s.resultZN b v) v := State.setZN_flags _ v

theorem State.shiftInto_frame : OnlyRegAndFlags s (s.shiftInto b v c) s.bank b :=
  OnlyRegAndFlags.setZN (OnlyRegAndFlags.setC (s.setX_onlyReg b v).1 c) v

@[simp] theorem State.shiftInto_reg : (s.shiftInto b v c).reg s.bank b = v := s.reg_setX_same b v

@[simp] theorem State.shiftInto_c : (s.shiftInto b v c).c = c := rfl

theorem State.shiftInto_flags : ZNFrom (s.shiftInto b v c) v := State.setZN_flags _ v

/-- `neg` and `abs` write the carry before the result, which makes no difference. -/
theorem State.setC_resultZN : (s.setC c).resultZN b v = s.shiftInto b v c := by
  obtain ⟨cfg, regs0, regs1, bank⟩ := s
  cases bank <;> rfl

end

/-! ### Sums and differences -/

theorem quick_toNat (f : Field) : (BitVec.ofNat 32 (quick f)).toNat = quickValue f := by
  have hf := f.isLt
  rw [quick_eq, BitVec.toNat_ofNat, quickValue]
  split <;> omega

theorem carryOf_iff (x y : Long) (cin : Bool) : carryOf x y cin = true ↔ 2 ^ 32 ≤ x.toNat + y.toNat + cin.toNat :=
  decide_eq_true_iff

theorem borrowOf_iff (x y : Long) (bin : Bool) :
    borrowOf x y bin = true ↔ (x.toNat : Int) - y.toNat - bin.toNat < 0 := by
  rw [borrowOf, decide_eq_true_eq]
  omega

theorem differenceOf_eq_sub (x y : Long) : differenceOf x y false = x - y := by
  have hd := differenceOf_toNat x y false
  have hx := x.isLt
  have hy := y.isLt
  apply BitVec.eq_of_toNat_eq
  rw [BitVec.toNat_sub]
  simp only [Bool.toNat_false] at hd
  omega

/-- An add and a shift write their results and flags alike. -/
theorem State.addInto_eq_shiftInto (s : State) (b : Reg) (y : Long) (cin : Bool) :
    s.addInto b y cin = s.shiftInto b (sumOf (s.x b) y cin) (carryOf (s.x b) y cin) := rfl

theorem State.addInto_addsTo (s : State) (b : Reg) (y : Long) (cin : Bool) :
    AddsTo s (s.addInto b y cin) b y.toNat cin.toNat := by
  rw [State.addInto_eq_shiftInto, AddsTo, State.shiftInto_reg, State.shiftInto_c]
  exact ⟨sumOf_toNat _ _ _, carryOf_iff _ _ _, State.shiftInto_flags .., State.shiftInto_frame ..⟩

/-- The result and flags of a difference, whatever it is taken from (40_arithmetic R135, R139). -/
theorem State.shiftInto_subtractsFrom (s : State) (b : Reg) (x y : Long) (bin : Bool) :
    SubtractsFrom s (s.shiftInto b (differenceOf x y bin) (borrowOf x y bin)) b x.toNat y.toNat bin.toNat := by
  rw [SubtractsFrom, State.shiftInto_reg, State.shiftInto_c]
  exact ⟨differenceOf_toNat _ _ _, borrowOf_iff _ _ _, State.shiftInto_flags .., State.shiftInto_frame ..⟩

theorem State.subInto_subtractsFrom (s : State) (b : Reg) (y : Long) (bin : Bool) :
    SubtractsFrom s (s.subInto b y bin) b (s.x b).toNat y.toNat bin.toNat :=
  s.shiftInto_subtractsFrom b (s.x b) y bin

theorem exec_neg (a : Field) (b : Reg) (s : State) :
    exec (.neg a b) s = .next (s.shiftInto b (differenceOf 0 (s.x b) false) (borrowOf 0 (s.x b) false)) :=
  congrArg Host.Outcome.next (State.setC_resultZN ..)

/-- Settles O32: the three are `addInto` with their second operand and carry in. -/
theorem addResultsAndFlags : Obligations.AddResultsAndFlags := by
  unfold Obligations.AddResultsAndFlags
  intro s a b
  refine ⟨⟨_, rfl, s.addInto_addsTo b _ false⟩, ⟨_, rfl, s.addInto_addsTo b _ s.c⟩, ⟨_, rfl, ?quick⟩⟩
  rw [← quick_toNat]
  exact s.addInto_addsTo b _ false

/-- Settles O33: `sub`, `subc` and `subq` subtract from `x[B]`, `neg` from 0. -/
theorem subtractResultsAndFlags : Obligations.SubtractResultsAndFlags := by
  unfold Obligations.SubtractResultsAndFlags
  intro s a b
  refine ⟨⟨_, rfl, s.subInto_subtractsFrom b _ false⟩, ⟨_, rfl, s.subInto_subtractsFrom b _ s.c⟩, ⟨_, rfl, ?quick⟩,
    ⟨_, exec_neg a b s, s.shiftInto_subtractsFrom b 0 _ false⟩⟩
  rw [← quick_toNat]
  exact s.subInto_subtractsFrom b _ false

/-- Settles O34: the register write alone, of the sum or difference without a carry. -/
theorem transparentQuickFormsKeepFlags : Obligations.TransparentQuickFormsKeepFlags := by
  unfold Obligations.TransparentQuickFormsKeepFlags
  intro s a b
  refine ⟨⟨_, rfl, ?sum, s.setX_onlyReg b _⟩, ⟨_, rfl, ?difference, s.setX_onlyReg b _⟩⟩
  case sum =>
    rw [State.reg_setX_same, ← quick_toNat]
    exact sumOf_toNat _ _ false
  case difference =>
    rw [State.reg_setX_same, ← quick_toNat, differenceOf_toNat, Bool.toNat_false, Nat.cast_zero, sub_zero]

/-! ### The magnitude (40_arithmetic R140) -/

/-- What `abs` makes of an operand. -/
def magnitude (v : Long) : Long := if v.getLsbD 31 then differenceOf 0 v false else v

theorem exec_abs (a : Field) (b : Reg) (s : State) :
    exec (.abs a b) s = .next (s.shiftInto b (magnitude (s.x b)) ((s.x b).getLsbD 31)) :=
  congrArg Host.Outcome.next (State.setC_resultZN ..)

theorem magnitude_toNat (v : Long) : (magnitude v).toNat = v.toInt.natAbs := by
  have hv := v.isLt
  rw [magnitude, differenceOf_eq_sub, sign_bit, BitVec.toInt_eq_toNat_cond]
  split
  · next hs =>
    rw [decide_eq_true_eq] at hs
    rw [if_neg (by omega), zero_sub, BitVec.toNat_neg]
    omega
  · next hs =>
    rw [decide_eq_true_eq] at hs
    rw [if_pos (by omega)]
    omega

theorem magnitude_eq_zero_iff (v : Long) : magnitude v = 0 ↔ v = 0 := by
  rw [← BitVec.toNat_inj, magnitude_toNat, ← BitVec.toInt_inj]
  exact Int.natAbs_eq_zero

/-- The most negative number is the only one whose magnitude reads as negative. -/
theorem magnitude_neg_iff (v : Long) : (magnitude v).toInt < 0 ↔ v = 0x80000000 := by
  have hv := v.isLt
  rw [← BitVec.toNat_inj, BitVec.toInt_eq_toNat_cond, magnitude_toNat, BitVec.toInt_eq_toNat_cond]
  change _ ↔ v.toNat = 2147483648
  split <;> split <;> omega

/-- Settles O35: the flags are those of the magnitude, the carry the sign before. -/
theorem absResultAndFlags : Obligations.AbsResultAndFlags := by
  unfold Obligations.AbsResultAndFlags
  intro s a b
  obtain ⟨hz, hn⟩ := s.shiftInto_flags b (magnitude (s.x b)) ((s.x b).getLsbD 31)
  refine ⟨_, exec_abs a b s, ?value, ?carry, hz.trans (magnitude_eq_zero_iff _), hn.trans (magnitude_neg_iff _),
    s.shiftInto_frame ..⟩
  case value => rw [State.shiftInto_reg, magnitude_toNat]
  case carry => rw [State.shiftInto_c, sign_bit_toInt, decide_eq_true_eq]

/-! ### Comparison (40_arithmetic R141) -/

theorem State.compare_frame (s : State) (x y : Long) : OnlyFlags s (s.compare x y) :=
  ⟨fun k _ => by cases k <;> rfl, fun _ => rfl, HostStateSame.refl s, rfl, rfl, rfl, rfl⟩

theorem State.compare_compares (s : State) (x y : Long) : Compares s (s.compare x y) x y := by
  obtain ⟨hz, hn⟩ := (s.setC (borrowOf x y false)).setZN_flags (differenceOf x y false)
  rw [differenceOf_eq_sub] at hz hn
  refine ⟨?equal, decide_eq_true_iff, ?negative, s.compare_frame x y⟩
  case equal => rw [State.compare, differenceOf_eq_sub, hz, sub_eq_zero]
  case negative => rw [State.compare, differenceOf_eq_sub, hn]

/-- Settles O36: both compare `x[B]`, `cmpq` with its immediate as a long. -/
theorem compareFlags : Obligations.CompareFlags := by
  unfold Obligations.CompareFlags
  intro s a b
  refine ⟨⟨_, rfl, s.compare_compares _ _⟩, ⟨_, rfl, ?immediate⟩⟩
  rw [← signed5_eq]
  exact s.compare_compares _ _

/-! ### Products of low halves (40_arithmetic R144, R145) -/

theorem mul_lowHalves_toNat (x y : Long) :
    (BitVec.ofNat 32 ((x.setWidth 16).toNat * (y.setWidth 16).toNat)).toNat = x.toNat % 65536 * (y.toNat % 65536) := by
  have hx : x.toNat % 65536 ≤ 65535 := by omega
  have hy : y.toNat % 65536 ≤ 65535 := by omega
  have hxy : x.toNat % 65536 * (y.toNat % 65536) ≤ 65535 * 65535 := Nat.mul_le_mul hx hy
  rw [BitVec.toNat_setWidth, BitVec.toNat_setWidth, BitVec.toNat_ofNat]
  exact Nat.mod_eq_of_lt (Nat.lt_of_le_of_lt hxy (by decide))

/-- The product of two signed words is a signed long. -/
theorem trunc32_mul_toInt (x y : Word) : (trunc32 (x.toInt * y.toInt)).toInt = x.toInt * y.toInt := by
  have hlow := BitVec.le_toInt_mul_toInt (x := x) (y := y)
  have hhigh := BitVec.toInt_mul_toInt_le (x := x) (y := y)
  rw [trunc32, BitVec.toInt_ofInt]
  apply Int.bmod_eq_of_le <;> omega

/-- Settles O39: a product of two words fits a long, so the truncation to 32 bits is the product. -/
theorem multiplyLowHalves : Obligations.MultiplyLowHalves := by
  unfold Obligations.MultiplyLowHalves
  intro s a b
  refine ⟨⟨_, rfl, ?unsigned, ?flagsOfUnsigned, s.resultZN_c b _, s.resultZN_frame b _⟩,
    ⟨_, rfl, ?signed, ?flagsOfSigned, s.resultZN_c b _, s.resultZN_frame b _⟩⟩
  case unsigned => rw [State.resultZN_reg, mul_lowHalves_toNat]
  case signed =>
    rw [State.resultZN_reg, trunc32_mul_toInt, BitVec.setWidth_eq_extractLsb' (by decide),
      BitVec.setWidth_eq_extractLsb' (by decide)]
  case flagsOfUnsigned | flagsOfSigned =>
    rw [State.resultZN_reg]
    exact s.resultZN_flags b _

/-! ### Saturation (40_arithmetic R146 to R148) -/

theorem State.resultZN_saturatesTo (s : State) (b : Reg) {hi : Nat} (hpos : 0 < hi) (hlt : hi < 2 ^ 31) :
    SaturatesTo s (s.resultZN b (saturate hi (s.x b))) b hi := by
  have hval := saturate_toInt hi (s.x b) hlt
  obtain ⟨hz, hn⟩ := s.resultZN_flags b (saturate hi (s.x b))
  refine ⟨by rw [State.resultZN_reg, hval], hz.trans ?zero, ?nonneg, s.resultZN_c b _, s.resultZN_frame b _⟩
  case zero =>
    rw [← BitVec.toInt_inj, hval]
    change _ = (0 : Int) ↔ _
    omega
  case nonneg =>
    rw [Bool.eq_false_iff, Ne, hn, hval]
    omega

/-- Settles O40: the three differ in the upper end of the range alone. -/
theorem saturationClampsTheSignedValue : Obligations.SaturationClampsTheSignedValue := by
  unfold Obligations.SaturationClampsTheSignedValue
  intro s a b
  exact ⟨⟨_, rfl, s.resultZN_saturatesTo b (by decide) (by decide)⟩,
    ⟨_, rfl, s.resultZN_saturatesTo b (by decide) (by decide)⟩,
    ⟨_, rfl, s.resultZN_saturatesTo b (by decide) (by decide)⟩⟩

/-! ### The divide's values (40_arithmetic R143) -/

@[simp] theorem divQuotient_zero (n : Long) : divQuotient n 0 = 0 := if_pos rfl

@[simp] theorem divAdjusted_zero (n : Long) : divAdjusted n 0 = 0 := by
  simp [divAdjusted, divRemainder]

theorem odd_iff (v : Long) : v.getLsbD 0 = true ↔ v.toNat % 2 = 1 := by
  rw [BitVec.getLsbD, Nat.testBit_zero, decide_eq_true_eq]

section
variable {n d : Long}

/-- After an odd quotient the remainder register holds the remainder. -/
theorem divAdjusted_toNat_of_odd (hd : d ≠ 0) (hq : (divQuotient n d).toNat % 2 = 1) :
    (divAdjusted n d).toNat = n.toNat % d.toNat := by
  rw [divAdjusted, if_pos ((odd_iff _).2 hq), divRemainder_toNat hd]

/-- After an even quotient it holds the remainder less the divisor, modulo 2^32. -/
theorem divAdjusted_toNat_of_even (hd : d ≠ 0) (hq : (divQuotient n d).toNat % 2 = 0) :
    (divAdjusted n d).toNat = n.toNat % d.toNat + (2 ^ 32 - d.toNat) := by
  have hpos : 0 < d.toNat := BitVec.toNat_pos_of_ne_zero hd
  have hr : n.toNat % d.toNat < d.toNat := Nat.mod_lt _ hpos
  have hlt := d.isLt
  rw [divAdjusted, if_neg (by rw [odd_iff]; omega), BitVec.toNat_sub, divRemainder_toNat hd, Nat.mod_eq_of_lt (by omega)]
  omega

/-- Quotient and remainder register give the dividend back, by the parity of the quotient. -/
theorem divide_reconciles (hd : d ≠ 0) :
    ((divQuotient n d).toNat % 2 = 1 →
      (divQuotient n d).toNat * d.toNat + (divAdjusted n d).toNat = n.toNat)
    ∧ ((divQuotient n d).toNat % 2 = 0 →
      ((divQuotient n d).toNat * d.toNat + (divAdjusted n d).toNat + d.toNat) % 2 ^ 32 = n.toNat)
    ∧ ((divQuotient n d).toNat % 2 = 1 → (divAdjusted n d).toNat < d.toNat) := by
  have hpos : 0 < d.toNat := BitVec.toNat_pos_of_ne_zero hd
  have hn := n.isLt
  have hlt := d.isLt
  have hdiv : (divQuotient n d).toNat * d.toNat + n.toNat % d.toNat = n.toNat := by
    rw [divQuotient_toNat, Nat.div_add_mod']
  refine ⟨fun hq => ?odd, fun hq => ?even, fun hq => ?bound⟩
  case odd => rw [divAdjusted_toNat_of_odd hd hq, hdiv]
  case even =>
    rw [divAdjusted_toNat_of_even hd hq]
    omega
  case bound =>
    rw [divAdjusted_toNat_of_odd hd hq]
    exact Nat.mod_lt _ hpos

end

/-- Settles O38: the quotient written to the register, and nothing after it. -/
theorem divideInDspMode : Obligations.DivideInDspMode := by
  unfold Obligations.DivideInDspMode
  intro s a b hm
  have hexec : exec (.div a b) s = .next (s.setX b (divQuotient (s.x b) (s.x a))) := by
    change execDiv a b s = _
    rw [execDiv, hm]
  refine ⟨_, hexec, ?_, s.setX_onlyReg b _⟩
  rw [State.reg_setX_same, divQuotient_toNat]

/-! ### What a write in bounds and its hook leave (20_memory R71, R76, R77) -/

theorem State.readLong_of_rawLong? {s : State} {a v : Long} (h : s.rawLong? a = some v) :
    s.readLong a.toNat = .ok v := by
  cases hr : s.readLong a.toNat <;> simp [State.rawLong?, hr, Except.toOption] at h ⊢
  exact h

section
variable {s t : State} {w : Width} {ea v : Long}

/-- A write in bounds answers when its hook finds values where it reads. -/
theorem State.memWrite_answers (ho : s.outOfBounds (alignDown w ea) (widthBytes w) = false)
    (h : s.hookReady w ea v) : ∃ t, s.memWrite w ea v = .ok t := by
  obtain ⟨⟨f, hf⟩, hc⟩ := h
  rw [State.memWrite_eq, if_neg (by simp [ho])]
  exact State.writeHook_answers (State.readLong_of_rawLong? hf)
    fun hr => (hc hr).imp fun _ => State.readLong_of_rawLong?

/-- A write in bounds that answers has taken the bank from the flags register of the mode as the write left it
(20_memory R76). -/
theorem State.memWrite_bank (ho : s.outOfBounds (alignDown w ea) (widthBytes w) = false)
    (h : s.memWrite w ea v = .ok t) :
    ∃ f, t.rawLong? s.modeParams.flagsAddr = some f ∧ t.bank = f.getLsbD 14 := by
  rw [State.memWrite_eq, if_neg (by simp [ho])] at h
  obtain ⟨f, hf, ⟨-, rfl⟩ | ⟨-, c, -, ⟨-, rfl⟩ | ⟨-, rfl⟩⟩⟩ := State.writeHook_ok h
  all_goals exact ⟨f, State.rawLong?_of_readLong hf, rfl⟩

/-- What a write in bounds that answers does to `self_stop` and the reports: the advisory reports, and the stop when its
hook finds the enable bit clear during a run (20_memory R77). -/
theorem State.memWrite_selfStop (ho : s.outOfBounds (alignDown w ea) (widthBytes w) = false)
    (h : s.memWrite w ea v = .ok t) :
    (s.stopsItself w ea v → t.selfStop = true ∧ t.reports = s.reports ++ advisories s w ea ++ [.selfStop])
    ∧ (¬ s.stopsItself w ea v → t.selfStop = s.selfStop ∧ t.reports = s.reports ++ advisories s w ea) := by
  rw [State.memWrite_eq, if_neg (by simp [ho])] at h
  obtain ⟨f, -, ⟨hr, rfl⟩ | ⟨hr, c, hc, hbit⟩⟩ := State.writeHook_ok h
  · exact ⟨fun hs => absurd hs.1 hr, fun _ => ⟨rfl, rfl⟩⟩
  · have hraw : (s.stored w ea v).rawLong? s.modeParams.ctrlAddr = some c := State.rawLong?_of_readLong hc
    have hstops : s.stopsItself w ea v ↔ c.getLsbD s.cfg.enableBit = false := by
      rw [State.stopsItself, hraw]
      exact ⟨fun ⟨_, _, he, hb⟩ => Option.some.inj he ▸ hb, fun hb => ⟨hr, c, rfl, hb⟩⟩
    obtain ⟨hbit, rfl⟩ | ⟨hbit, rfl⟩ := hbit
    · exact ⟨fun hs => (nomatch (hstops.1 hs).symm.trans hbit), fun _ => ⟨rfl, rfl⟩⟩
    · exact ⟨fun _ => ⟨rfl, rfl⟩, fun hs => absurd (hstops.2 hbit) hs⟩

/-- A write changes no byte outside its operand. -/
theorem State.memWrite_memSameOutside (h : s.memWrite w ea v = .ok t) :
    MemSameOutside s t (alignDown w ea).toNat (widthBytes w) := by
  intro x hx
  rw [State.memWrite_mem h]
  split
  · rfl
  · exact Memory.read_writeBytes_outside s.mem (by rwa [storeBytes_length])

/-- A long that a write in bounds has stored is read back. -/
theorem State.memWrite_rawLong? (ho : s.outOfBounds (alignDown .long ea) (widthBytes .long) = false)
    (h : s.memWrite .long ea v = .ok t) : t.rawLong? (alignDown .long ea) = some v := by
  have hread : ∀ k : Nat, ∀ hk : k < (storeBytes .long v).length,
      t.mem.read ((alignDown .long ea).toNat + k) = some (storeBytes .long v)[k] := fun k hk => by
    rw [State.memWrite_read h ho (storeBytes_length .long v ▸ hk), List.getElem?_eq_getElem hk]
  obtain ⟨hval, -⟩ := t.readWidth_of_bytes .long _ (storeBytes .long v) (storeBytes_length .long v) hread
  have hmod : v.toNat % 2 ^ (8 * widthBytes .long) = v.toNat := Nat.mod_eq_of_lt v.isLt
  rw [bigEndian_storeBytes, hmod, BitVec.ofNat_toNat, BitVec.setWidth_eq] at hval
  exact State.rawLong?_of_readLong hval

end

/-- A register written before changes nothing for the stop. -/
theorem State.stopsItself_setX (s : State) (i : Reg) (q : Long) (w : Width) (ea v : Long) :
    (s.setX i q).stopsItself w ea v ↔ s.stopsItself w ea v := by
  have hmem : ((s.setX i q).stored w ea v).mem = (s.stored w ea v).mem := by simp [State.stored]
  simp only [State.stopsItself, State.rawLong?, State.readLong_congr hmem, State.modeParams, State.setX_mode,
    State.setX_cfg, State.setX_runState]

/-- An aligned access to a long makes no advisory report (20_memory R64, R74). -/
theorem advisories_of_aligned_long {s : State} {ea : Long} (h : ea.toNat % 4 = 0) : advisories s .long ea = [] := by
  simp [advisories, widthBytes, h]

/-- 00_scope R5: the memory-mapped registers are aligned. -/
theorem Config.registers_aligned {c : Config} (h : c.wf = true) {r : Long} (hr : r ∈ c.registerAddrs) :
    r.toNat % 4 = 0 := by
  simp only [Config.wf, Bool.and_eq_true] at h
  obtain ⟨⟨⟨⟨⟨⟨⟨⟨haligned, -⟩, -⟩, -⟩, -⟩, -⟩, -⟩, -⟩, -⟩ := h
  exact beq_iff_eq.1 (List.all_eq_true.1 haligned r (List.mem_append_left _ hr))

/-- A write to the remainder register stores the long there and runs the hook, with no advisory report. -/
theorem State.memWrite_remainAddr {s : State} {v : Long} (hw : s.cfg.wf = true)
    (hready : s.hookReady .long s.cfg.remainAddr v) :
    ∃ t, s.memWrite .long s.cfg.remainAddr v = .ok t
      ∧ t.rawLong? s.cfg.remainAddr = some v ∧ MemSameOutside s t s.cfg.remainAddr.toNat 4
      ∧ (∃ f, t.rawLong? s.modeParams.flagsAddr = some f ∧ t.bank = f.getLsbD 14)
      ∧ (s.stopsItself .long s.cfg.remainAddr v → t.selfStop = true ∧ t.reports = s.reports ++ [.selfStop])
      ∧ (¬ s.stopsItself .long s.cfg.remainAddr v → t.selfStop = s.selfStop ∧ t.reports = s.reports) := by
  have haligned := Config.registers_aligned hw (r := s.cfg.remainAddr) (by simp [Config.registerAddrs])
  have ho := State.remainAddr_inBounds hw
  obtain ⟨t, ht⟩ := State.memWrite_answers ho hready
  have hraw := State.memWrite_rawLong? ho ht
  have hout := State.memWrite_memSameOutside ht
  have hstop := State.memWrite_selfStop ho ht
  rw [alignDown_of_aligned haligned] at hraw hout
  rw [advisories_of_aligned_long haligned, List.append_nil] at hstop
  exact ⟨t, ht, hraw, hout, State.memWrite_bank ho ht, hstop⟩

/-- Settles O37: `div` is the register write and then a write to the remainder register, whose hook does the rest. -/
theorem divideInGpuMode : Obligations.DivideInGpuMode := by
  unfold Obligations.DivideInGpuMode
  intro s a b hw hm hready
  obtain ⟨t, ht, hraw, hout, hbank, hstop⟩ :=
    State.memWrite_remainAddr (s := s.setX b (divQuotient (s.x b) (s.x a))) (by rwa [State.setX_cfg])
      ((State.hookReady_setX ..).2 (by rwa [State.setX_cfg]))
  obtain ⟨hhost, hflags, hds, hregs⟩ := State.memWrite_frame ht
  simp only [State.setX_cfg, State.modeParams, State.setX_mode, hm, State.stopsItself_setX, State.setX_selfStop,
    State.setX_reports] at ht hraw hout hbank hstop
  refine ⟨t, _, _, ?exec, ?quotient, hraw, ?zero, fun hd => ⟨divQuotient_toNat _ _, divide_reconciles hd⟩, ?regs,
    ?flags, ?memory, hbank, (HostStateSame.setX s b _).trans hhost, hds.trans (s.setX_ds b _), hstop⟩
  case exec => rw [exec_div_of_gpu a b hm, ht]; rfl
  case quotient => rw [hregs, State.reg_setX_same]
  case zero =>
    intro hd
    rw [hd]
    exact ⟨divQuotient_zero _, divAdjusted_zero _⟩
  case regs => exact fun k i hne => (hregs k i).trans (s.setX_regsSameBut b _ k i hne)
  case flags => simpa only [FlagsSame, State.setX_z, State.setX_n, State.setX_c] using hflags
  case memory => exact fun x hx => (hout x hx).trans (by rw [State.setX_mem])

end Sys2Proof.Machine
end

/-! SUPPORT. The logical and bit instructions (41_logical): each bit of a result, and of the mask of one bit. -/

section
namespace Sys2Proof.Machine

/-! ### Bits of a written result (41_logical R160) -/

theorem complement_bit (v : Long) {k : Nat} (hk : k < 32) : (~~~v).getLsbD k = !v.getLsbD k := by
  rw [BitVec.getLsbD_not, decide_eq_true hk, Bool.true_and]

/-- A result written with its flags leaves the bits it has. -/
theorem State.resultZN_bitsAre {s : State} {b : Reg} {v : Long} {bit : Nat → Bool}
    (hv : ∀ k, k < 32 → v.getLsbD k = bit k) : BitsAre s (s.resultZN b v) b bit := by
  rw [BitsAre, State.resultZN_reg]
  exact ⟨hv, s.resultZN_flags b v, s.resultZN_c b v, s.resultZN_frame b v⟩

/-- Settles O41: a bitwise operation on longs acts on each bit alone. -/
theorem logicalResultsAreBitwise : Obligations.LogicalResultsAreBitwise := by
  unfold Obligations.LogicalResultsAreBitwise
  intro s a b
  refine ⟨⟨_, rfl, State.resultZN_bitsAre ?and⟩, ⟨_, rfl, State.resultZN_bitsAre ?or⟩,
    ⟨_, rfl, State.resultZN_bitsAre ?xor⟩, ⟨_, rfl, State.resultZN_bitsAre ?not⟩⟩
  case and => exact fun _ _ => BitVec.getLsbD_and
  case or => exact fun _ _ => BitVec.getLsbD_or
  case xor => exact fun _ _ => BitVec.getLsbD_xor
  case not => exact fun _ hk => complement_bit _ hk

/-! ### One bit (41_logical R165 to R167) -/

/-- The mask of bit `A` has that bit and no other. -/
theorem bitMask_bit (a : Field) {k : Nat} (hk : k < 32) : ((1 : Long) <<< a.toNat).getLsbD k = (k == a.toNat) := by
  rw [show (1 : Long) <<< a.toNat = BitVec.twoPow 32 a.toNat from rfl, BitVec.getLsbD_twoPow, Bool.eq_iff_iff]
  simp only [Bool.and_eq_true, decide_eq_true_eq, beq_iff_eq]
  omega

theorem bitSet_bit (v : Long) (a : Field) {k : Nat} (hk : k < 32) :
    (v ||| ((1 : Long) <<< a.toNat)).getLsbD k = (k == a.toNat || v.getLsbD k) := by
  rw [BitVec.getLsbD_or, bitMask_bit a hk, Bool.or_comm]

theorem bitClear_bit (v : Long) (a : Field) {k : Nat} (hk : k < 32) :
    (v &&& ~~~((1 : Long) <<< a.toNat)).getLsbD k = (k != a.toNat && v.getLsbD k) := by
  rw [BitVec.getLsbD_and, complement_bit _ hk, bitMask_bit a hk, Bool.and_comm, bne]

/-- A long with a bit set is not zero. -/
theorem bitSet_ne_zero (v : Long) (a : Field) : v ||| ((1 : Long) <<< a.toNat) ≠ 0 := by
  intro h
  have hbit := bitSet_bit v a a.isLt
  rw [h, beq_self_eq_true, Bool.true_or] at hbit
  exact Bool.false_ne_true (BitVec.getLsbD_zero.symm.trans hbit)

/-- A write of `Z` alone leaves everything but the flags. -/
theorem State.withZ_onlyFlags (s : State) (z : Bool) : OnlyFlags s { s with z := z } :=
  ⟨fun k _ => by cases k <;> rfl, fun _ => rfl, HostStateSame.refl s, rfl, rfl, rfl, rfl⟩

/-- Settles O42: `btst` writes `Z` from bit `A`; `bset` and `bclr` join and remove the mask of bit `A`. -/
theorem bitInstructionsTouchOneBit : Obligations.BitInstructionsTouchOneBit := by
  unfold Obligations.BitInstructionsTouchOneBit
  intro s a b
  refine ⟨⟨_, rfl, ?tested, rfl, rfl, s.withZ_onlyFlags _⟩,
    ⟨_, rfl, State.resultZN_bitsAre fun _ hk => bitSet_bit _ a hk, ?nonzero⟩,
    ⟨_, rfl, State.resultZN_bitsAre fun _ hk => bitClear_bit _ a hk⟩⟩
  case tested => exact Iff.of_eq (Bool.not_eq_true' _)
  case nonzero => exact beq_false_of_ne (bitSet_ne_zero _ a)

end Sys2Proof.Machine
end

/-! SUPPORT. The shift and rotate instructions (42_shift): what a shift by a signed amount leaves, and the amount of each
form. -/

section
namespace Sys2Proof.Machine

/-! ### What a shift leaves (42_shift R171) -/

section
variable {s : State} {b : Reg} {right : Long → Nat → Long} {amt : Int} {bit : Nat → Bool}

/-- A result written with its carry and flags leaves the bits it has. -/
theorem State.shiftInto_shiftsTo {v : Long} {carry : Bool} (hv : ∀ k, k < 32 → v.getLsbD k = bit k) :
    ShiftsTo s (s.shiftInto b v carry) b bit carry := by
  rw [ShiftsTo, State.shiftInto_reg]
  exact ⟨hv, State.shiftInto_c .., State.shiftInto_flags .., State.shiftInto_frame ..⟩

theorem State.shiftBy_of_nonneg (h : 0 ≤ amt) :
    s.shiftBy right b amt = s.shiftInto b (right (s.x b) amt.toNat) ((s.x b).getLsbD 0) := if_pos h

theorem State.shiftBy_of_neg (h : amt < 0) :
    s.shiftBy right b amt = s.shiftInto b (lsl (s.x b) amt.natAbs) ((s.x b).getLsbD 31) := by
  rw [State.shiftBy, if_neg (by omega), show (-amt).toNat = amt.natAbs by omega]

end

/-! ### The amount of a register form (42_shift R170) -/

theorem shiftAmount_of_inRange {v : Long} (hlo : -32 ≤ v.toInt) (hhi : v.toInt ≤ 32) : shiftAmount v = v.toInt :=
  if_neg (by omega)

theorem shiftAmount_of_outOfRange {v : Long} (h : v.toInt < -32 ∨ 32 < v.toInt) : shiftAmount v = 0 :=
  if_pos h.symm

/-- A long that is not negative has one value, signed or not. -/
theorem toNat_toInt_of_nonneg {v : Long} (h : 0 ≤ v.toInt) : v.toInt.toNat = v.toNat :=
  BitVec.toNat_toInt_of_sle (BitVec.sle_iff_toInt_le.2 h)

theorem lsr_zero (v : Long) : lsr v 0 = v := BitVec.eq_of_getLsbD_eq fun k _ => lsr_bit v 0 k

theorem asr_zero (v : Long) : asr v 0 = v := by
  refine BitVec.eq_of_getLsbD_eq fun k hk => ?_
  rw [asr_bit v 0 hk, Nat.add_zero, Nat.min_eq_right (by omega)]

section
variable {s : State} {a b : Reg} {right : Long → Nat → Long} {bit : Nat → Bool}

/-- An amount from 0 to 32 is performed to the right. -/
theorem State.shiftBy_shiftsTo_right (hbit : ∀ k, k < 32 → (right (s.x b) (s.x a).toNat).getLsbD k = bit k)
    (hlo : 0 ≤ (s.x a).toInt) (hhi : (s.x a).toInt ≤ 32) :
    ShiftsTo s (s.shiftBy right b (shiftAmount (s.x a))) b bit ((s.x b).getLsbD 0) := by
  rw [shiftAmount_of_inRange (by omega) hhi, State.shiftBy_of_nonneg hlo, toNat_toInt_of_nonneg hlo]
  exact State.shiftInto_shiftsTo hbit

/-- An amount from -32 to -1 is performed to the left, whatever the shift to the right is. -/
theorem State.shiftBy_shiftsTo_left (hlo : -32 ≤ (s.x a).toInt) (hneg : (s.x a).toInt < 0) :
    ShiftsTo s (s.shiftBy right b (shiftAmount (s.x a))) b
      (fun k => decide ((s.x a).toInt.natAbs ≤ k) && (s.x b).getLsbD (k - (s.x a).toInt.natAbs))
      ((s.x b).getLsbD 31) := by
  rw [shiftAmount_of_inRange hlo (by omega), State.shiftBy_of_neg hneg]
  exact State.shiftInto_shiftsTo fun _ hk => lsl_bit _ _ hk

/-- Any other amount acts as a shift to the right by 0. -/
theorem State.shiftBy_shiftsTo_outOfRange (hzero : right (s.x b) 0 = s.x b)
    (h : (s.x a).toInt < -32 ∨ 32 < (s.x a).toInt) :
    ShiftsTo s (s.shiftBy right b (shiftAmount (s.x a))) b (fun k => (s.x b).getLsbD k) ((s.x b).getLsbD 0) := by
  rw [shiftAmount_of_outOfRange h, State.shiftBy_of_nonneg (le_refl 0), Int.toNat_zero, hzero]
  exact State.shiftInto_shiftsTo fun _ _ => rfl

end

/-- Settles O43: by the range of the amount; `sh` and `sha` differ in the shift to the right alone. -/
theorem registerShifts : Obligations.RegisterShifts := by
  unfold Obligations.RegisterShifts
  intro s a b
  refine ⟨_, _, rfl, rfl, ?right, ?left, ?outOfRange⟩
  case right =>
    rintro ⟨hlo, hhi⟩
    exact ⟨State.shiftBy_shiftsTo_right (fun _ _ => lsr_bit _ _ _) hlo hhi,
      State.shiftBy_shiftsTo_right (fun _ hk => asr_bit _ _ hk) hlo hhi⟩
  case left =>
    rintro ⟨hlo, hneg⟩
    exact ⟨State.shiftBy_shiftsTo_left hlo hneg, State.shiftBy_shiftsTo_left hlo hneg⟩
  case outOfRange =>
    intro h
    exact ⟨State.shiftBy_shiftsTo_outOfRange (lsr_zero _) h, State.shiftBy_shiftsTo_outOfRange (asr_zero _) h⟩

/-! ### The count of a quick form (42_shift R175 to R177) -/

/-- A shift to the left by `32 - A` moves bit `k + A - 32` to bit `k`. -/
theorem lsl_leftCount_bit (v : Long) (a : Field) {k : Nat} (hk : k < 32) :
    (lsl v (leftCount a)).getLsbD k = (decide (32 ≤ k + a.toNat) && v.getLsbD (k + a.toNat - 32)) := by
  have ha := a.isLt
  have hle : leftCount a ≤ k ↔ 32 ≤ k + a.toNat := by rw [leftCount]; omega
  have hsub : k - leftCount a = k + a.toNat - 32 := by rw [leftCount]; omega
  rw [lsl_bit v _ hk, hsub, decide_eq_decide.2 hle]

/-- Settles O44: each is one shift by the count that the instruction holds. -/
theorem quickShifts : Obligations.QuickShifts := by
  unfold Obligations.QuickShifts
  intro s a b
  rw [← quick_eq]
  exact ⟨⟨_, rfl, State.shiftInto_shiftsTo fun _ hk => lsl_leftCount_bit _ a hk⟩,
    ⟨_, rfl, State.shiftInto_shiftsTo fun _ _ => lsr_bit _ _ _⟩,
    ⟨_, rfl, State.shiftInto_shiftsTo fun _ hk => asr_bit _ _ hk⟩⟩

/-! ### Rotates (42_shift R178, R179) -/

/-- A rotate depends on its amount modulo 32 alone. -/
theorem rotr_bit_of_emod (v : Long) {amt : Int} {n k : Nat} (h : amt % 32 = (n : Int) % 32) (hk : k < 32) :
    (rotr v amt).getLsbD k = v.getLsbD ((k + n) % 32) := by
  rw [rotr_bit v amt hk, show (k + (amt % 32).toNat) % 32 = (k + n) % 32 by omega]

theorem rotr_zero (v : Long) : rotr v 0 = v := by
  refine BitVec.eq_of_getLsbD_eq fun k hk => ?_
  rw [rotr_bit v 0 hk, Int.zero_emod, Int.toNat_zero, Nat.add_zero, Nat.mod_eq_of_lt hk]

/-- Signed or not, a long is the same modulo 32. -/
theorem toInt_emod_32 (v : Long) : v.toInt % 32 = (v.toNat : Int) % 32 := by
  rw [BitVec.toInt_eq_toNat_cond]
  split <;> omega

/-- Settles O45: the signed amount and the unsigned one are congruent modulo 32. -/
theorem rotates : Obligations.Rotates := by
  unfold Obligations.Rotates
  intro s a b
  refine ⟨⟨_, rfl, ?inRange, ?outOfRange⟩, ⟨_, rfl, ?quick⟩⟩
  case inRange =>
    rintro ⟨hlo, hhi⟩
    rw [shiftAmount_of_inRange hlo hhi]
    exact State.shiftInto_shiftsTo fun _ hk => rotr_bit_of_emod _ (toInt_emod_32 _) hk
  case outOfRange =>
    intro h
    rw [shiftAmount_of_outOfRange h, rotr_zero]
    exact State.shiftInto_shiftsTo fun _ _ => rfl
  case quick =>
    rw [← quick_eq]
    exact State.shiftInto_shiftsTo fun _ hk => rotr_bit_of_emod _ rfl hk

end Sys2Proof.Machine
end

/-! SUPPORT. The loads and stores (43_load_store): what a load leaves, and a store as one write and its hook. -/

section
namespace Sys2Proof.Machine

/-! ### The loads (43_load_store R185 to R191, R199) -/

/-- Everything is unchanged but register `b` of the current bank and the reports `rs` made (43_load_store R199). -/
def LoadFrame (s t : State) (b : Reg) (rs : List Report) : Prop :=
  RegsSameBut s t s.bank b ∧ FlagsSame s t ∧ MemSame s t ∧ HostStateSame s t
  ∧ t.bank = s.bank ∧ t.ds = s.ds ∧ t.selfStop = s.selfStop ∧ t.reports = s.reports ++ rs

/-- The state with reports made and then a register of the current bank written: what every load leaves. -/
def State.loaded (s : State) (b : Reg) (v : Long) (rs : List Report) : State :=
  ({ s with reports := s.reports ++ rs } : State).setX b v

section
variable (s : State) (b : Reg) (v : Long) (rs : List Report)

theorem State.loaded_reg : (s.loaded b v rs).reg s.bank b = v :=
  State.reg_setX_same { s with reports := s.reports ++ rs } b v

theorem State.loaded_frame : LoadFrame s (s.loaded b v rs) b rs := by
  obtain ⟨⟨hregs, hmem, hhost, hbank, hds, hstop, hreports⟩, hflags⟩ :=
    State.setX_onlyReg { s with reports := s.reports ++ rs } b v
  exact ⟨hregs, hflags, hmem, hhost, hbank, hds, hstop, hreports⟩

end

section
variable {s : State} {w : Width} {ea : Long} (b : Reg)

/-- A load in bounds writes the long that the read answers, and makes the advisory reports (20_memory R70). -/
theorem State.loadInto_inBounds {v : Long} (ho : s.outOfBounds (alignDown w ea) (widthBytes w) = false)
    (hv : s.readWidth w (alignDown w ea).toNat = .ok v) :
    s.loadInto w ea b = .next (s.loaded b v (advisories s w ea)) := by
  rw [State.loadInto_eq, State.memRead_eq, if_neg (by simp [ho]), hv]
  rfl

/-- A load out of bounds writes the sentinel, and reports the access (20_memory R65, R70). -/
theorem State.loadInto_outOfBounds (ho : s.outOfBounds (alignDown w ea) (widthBytes w) = true) :
    s.loadInto w ea b = .next (s.loaded b 0xFFFFFFFF (boundsReports s w ea)) := by
  rw [State.loadInto_eq, State.memRead_eq, if_pos ho]
  rfl

end

/-- A number that fits an operand of any width fits a long. -/
theorem fits_long_of_fits_width {w : Width} {n : Nat} (h : n < 2 ^ (8 * widthBytes w)) : n < 2 ^ 32 := by
  cases w <;> simp only [widthBytes] at h <;> omega

/-- Settles O26: the read assembles the written bytes big-endian, and the register takes the whole long. -/
theorem loadsReadBigEndianAndZeroExtend : Obligations.LoadsReadBigEndianAndZeroExtend := by
  unfold Obligations.LoadsReadBigEndianAndZeroExtend
  intro i s w ea b bs hi ho hlen hbytes
  obtain ⟨hread, hfits⟩ := s.readWidth_of_bytes w _ bs hlen hbytes
  refine ⟨_, (exec_of_loadOperand hi).trans (State.loadInto_inBounds b ho hread), ?value, s.loaded_frame b _ _⟩
  rw [State.loaded_reg, BitVec.toNat_ofNat, Nat.mod_eq_of_lt (fits_long_of_fits_width hfits)]

/-- Settles O27: the out-of-bounds branch of the read answers the sentinel at every width. -/
theorem loadsOutOfBoundsGiveTheSentinel : Obligations.LoadsOutOfBoundsGiveTheSentinel := by
  unfold Obligations.LoadsOutOfBoundsGiveTheSentinel
  intro i s w ea b hi ho
  exact ⟨_, (exec_of_loadOperand hi).trans (State.loadInto_outOfBounds b ho), s.loaded_reg b _ _,
    s.loaded_frame b _ _⟩

/-! ### The stores (43_load_store R192 to R199) -/

theorem State.modeParams_gpu {s : State} (h : s.mode = .gpu) : s.modeParams = s.cfg.gpu := by
  rw [State.modeParams, h]

theorem State.modeParams_dsp {s : State} (h : s.mode = .dsp) : s.modeParams = s.cfg.dsp := by
  rw [State.modeParams, h]

/-- Settles O29: a store is one write of the data register, whose hook finds the registers it reads. -/
theorem storesWriteBytesAndRunTheHook : Obligations.StoresWriteBytesAndRunTheHook := by
  unfold Obligations.StoresWriteBytesAndRunTheHook
  intro i s w ea b hi ho hready
  obtain ⟨t, ht⟩ := State.memWrite_answers ho hready
  obtain ⟨hhost, hflags, hds, hregs⟩ := State.memWrite_frame ht
  have hbank := State.memWrite_bank ho ht
  refine ⟨t, ?exec, ?bytes, State.memWrite_memSameOutside ht, ?gpu, ?dsp, hregs, hflags, hhost, hds,
    State.memWrite_selfStop ho ht⟩
  case exec => rw [exec_of_storeOperand hi, State.storeFrom, ht, outcomeOf]
  case bytes => exact fun k hk => (State.memWrite_read ht ho hk).trans (storeBytes_getElem w _ k hk)
  case gpu => exact fun hm => State.modeParams_gpu hm ▸ hbank
  case dsp => exact fun hm => State.modeParams_dsp hm ▸ hbank

/-- Settles O30: the out-of-bounds branch of the write makes its reports and stores nothing. -/
theorem storesOutOfBoundsAreDropped : Obligations.StoresOutOfBoundsAreDropped := by
  unfold Obligations.StoresOutOfBoundsAreDropped
  intro i s w ea b hi ho
  rw [exec_of_storeOperand hi, State.storeFrom, State.memWrite_eq, if_pos ho, outcomeOf]

end Sys2Proof.Machine
end

section
/-! SUPPORT. The moves (44_move): what a write of a register of either bank leaves unchanged, and the address of the
instruction that runs. -/

namespace Sys2Proof.Machine

/-! ### What a write of a register of either bank leaves unchanged (10_state R21) -/

section
variable (s : State) (k : Bool) (i : Reg) (v : Long)

theorem State.setReg_onlyReg : OnlyReg s (s.setReg k i v) k i :=
  ⟨⟨fun _ _ hne => State.reg_setReg_other s v hne, by simp [MemSame], by simp [SpecialsSame, HostStateSame]⟩,
    by simp [FlagsSame]⟩

theorem State.reg_setXo_same : (s.setXo i v).reg (!s.bank) i = v := s.reg_setReg_same (!s.bank) i v

theorem State.setXo_onlyReg : OnlyReg s (s.setXo i v) (!s.bank) i := s.setReg_onlyReg (!s.bank) i v

end

/-! ### The moves (44_move R210 to R215) -/

/-- `pc` is 2 past the address that `move pc` writes, around the end of the address space too. -/
theorem ownAddress_add_two (pc : Long) : ((pc - 2).toNat + 2) % 2 ^ 32 = pc.toNat :=
  calc ((pc - 2).toNat + 2) % 2 ^ 32
      _ = (pc - 2 + 2).toNat := (BitVec.toNat_add (pc - 2) 2).symm
      _ = pc.toNat := by rw [BitVec.sub_add_cancel]

/-- Settles O46: each of the four is one write of register `b` of the current bank. -/
theorem movesWriteOneRegister : Obligations.MovesWriteOneRegister := by
  unfold Obligations.MovesWriteOneRegister
  intro s a b imm
  refine ⟨⟨_, rfl, s.reg_setX_same b _, s.setX_onlyReg b _⟩, ⟨_, rfl, ?quick, s.setX_onlyReg b _⟩,
    ⟨_, rfl, s.reg_setX_same b imm, s.setX_onlyReg b imm⟩, ⟨_, rfl, ?ownAddress, s.setX_onlyReg b _⟩⟩
  case quick => rw [State.reg_setX_same, BitVec.toNat_setWidth_of_le (by decide)]
  case ownAddress => rw [State.reg_setX_same, ownAddress_add_two]

/-- Settles O47: `moveta` is a write of the other bank, `movefa` a write of the current one. -/
theorem bankCrossingMoves : Obligations.BankCrossingMoves := by
  unfold Obligations.BankCrossingMoves
  intro s a b
  exact ⟨⟨_, rfl, s.reg_setXo_same b (s.x a), s.setXo_onlyReg b _⟩,
    ⟨_, rfl, s.reg_setX_same b (s.xo a), s.setX_onlyReg b _⟩⟩

end Sys2Proof.Machine
end

section
/-! SUPPORT. Control (45_control): one executed instruction on the bytes at `pc`, the delay-slot commit, the branches, their
conditions, `nop` and UNKNOWN. -/

namespace Sys2Proof.Machine

/-! ### The instruction that bytes decode to (30_encoding R100, R104) -/

/-- The bytes of exactly one instruction are its word, and for a `movei` two extension words after it. -/
theorem decode_eq_ok_nil {m : OpcodeMap} {order : WordOrder} {bs : List Byte} {i : Instr}
    (h : decode m order bs = .ok (i, [])) :
    (∃ b0 b1, bs = [b0, b1] ∧ kindOfWord m (b0 ++ b1) ≠ .movei ∧ i = decodeWord m (b0 ++ b1) 0)
    ∨ ∃ b0 b1 c0 c1 d0 d1, bs = [b0, b1, c0, c1, d0, d1] ∧ kindOfWord m (b0 ++ b1) = .movei
      ∧ i = decodeWord m (b0 ++ b1) (immediate order (c0 ++ c1) (d0 ++ d1)) := by
  match bs with
  | [] | [_] => cases h
  | b0 :: b1 :: rest =>
    by_cases hk : kindOfWord m (b0 ++ b1) = .movei
    · match rest with
      | [] | [_] | [_, _] | [_, _, _] =>
        rw [decode_of_movei_truncated hk (by simp)] at h
        cases h
      | c0 :: c1 :: d0 :: d1 :: rest =>
        rw [decode_of_movei hk] at h
        cases h
        exact .inr ⟨b0, b1, c0, c1, d0, d1, rfl, hk, rfl⟩
    · rw [decode_of_ne_movei hk] at h
      cases h
      exact .inl ⟨b0, b1, rfl, hk, rfl⟩

/-! ### One executed instruction (45_control R220) -/

/-- Go on from the next state of an outcome; a fault and a refusal stand. -/
def mapNext (f : State → State) : Host.Outcome State Fault Refusal → Host.Outcome State Fault Refusal
  | .next t => .next (f t)
  | .fault r => .fault r
  | .refused r => .refused r

theorem execAndCommit_eq_mapNext (i : Instr) (s : State) :
    execAndCommit i s = mapNext (fun t => t.commitDelaySlot i.isBranch) (exec i s) := rfl

theorem execAndCommit_of_next {i : Instr} {s t : State} (h : exec i s = .next t) :
    execAndCommit i s = .next (t.commitDelaySlot i.isBranch) := by
  rw [execAndCommit_eq_mapNext, h, mapNext]

/-- An iteration that no test of the run loop stops (70_reset R316). -/
theorem runIteration_eq_mapNext {s : State} (hs : s.stopRequested = false) (hbp : s.pc ∉ s.breakpoints)
    (hend : s.pc.toNat < s.loadAddress.toNat + s.programSize) :
    runIteration s = mapNext State.afterRunStep (executeNext s) := by
  unfold runIteration
  rw [if_neg (by simp [hs]), if_neg (by simpa using hbp), if_neg (by omega)]
  rfl

theorem executeNext_of_instruction {s t u : State} {w : Word} {i : Instr} (h0 : s.fetch s.pc = .ok (w, t))
    (hi : (t.advance (kindOfWord t.cfg.opcodeMap w).width).instruction w = .ok (i, u)) :
    executeNext s = execAndCommit i u := by
  simp only [executeNext, h0, executeWord, hi]

section
variable {s : State} {bs : List Byte}

/-- A fetch from bytes that hold a value gives the word they make, and no report (20_memory R62, R72). -/
theorem State.fetch_of_bytes {pc : Long} {n : Nat} (hw : s.cfg.wf = true) (he : pc.getLsbD 0 = false)
    (hb : pc.toNat + bs.length ≤ s.cfg.memSize)
    (hbs : ∀ k : Nat, ∀ h : k < bs.length, s.mem.read (pc.toNat + k) = some bs[k]) (hn : n % 2 = 0)
    (hlen : n + 1 < bs.length) : s.fetch (pc + BitVec.ofNat 32 n) = .ok (bs[n] ++ bs[n + 1], s) := by
  have hsize := Config.memSize_le hw
  obtain ⟨ha, hae⟩ := pc_add_even he hn (by omega)
  exact State.fetch_written hw hae (by omega) (ha ▸ hbs n _) (by rw [ha, Nat.add_assoc]; exact hbs (n + 1) hlen)

/-- The bytes at `pc` decode to `i`: what runs is `i`, with `pc` past it and no report (45_control R220, 20_memory R73). -/
theorem executeNext_of_decode {i : Instr} (hw : s.cfg.wf = true) (he : s.pc.getLsbD 0 = false)
    (hb : s.pc.toNat + bs.length ≤ s.cfg.memSize)
    (hbs : ∀ k : Nat, ∀ h : k < bs.length, s.mem.read (s.pc.toNat + k) = some bs[k])
    (hd : decode s.cfg.opcodeMap s.cfg.moveiWordOrder bs = .ok (i, [])) :
    executeNext s = execAndCommit i (s.advance i.width) := by
  have h0 (hlen : 1 < bs.length) : s.fetch s.pc = .ok (bs[0] ++ bs[1], s) := by
    simpa using State.fetch_of_bytes (n := 0) hw he hb hbs (by decide) hlen
  obtain ⟨b0, b1, rfl, hk, rfl⟩ | ⟨b0, b1, c0, c1, d0, d1, rfl, hk, rfl⟩ := decode_eq_ok_nil hd
  · rw [decodeWord_width]
    exact executeNext_of_instruction (h0 (by simp)) (State.instruction_of_word hk)
  · have hpc : (s.advance 6).pc - 6 = s.pc := add_sub_cancel_right s.pc 6
    have h1 : (s.advance 6).fetch ((s.advance 6).pc - 6 + 2) = .ok (c0 ++ c1, s.advance 6) :=
      hpc.symm ▸ State.fetch_of_bytes (s := s.advance 6) (n := 2) hw he hb hbs (by decide) (by simp)
    have h2 : (s.advance 6).fetch ((s.advance 6).pc - 6 + 4) = .ok (d0 ++ d1, s.advance 6) :=
      hpc.symm ▸ State.fetch_of_bytes (s := s.advance 6) (n := 4) hw he hb hbs (by decide) (by simp)
    rw [decodeWord_width]
    refine executeNext_of_instruction (w := b0 ++ b1) (h0 (by simp)) ?_
    rw [hk]
    exact State.instruction_of_movei (s := s.advance 6) hk h1 h2

end

/-- Settles O7: the step is `executeNext`, alone or as the body of an iteration, and that is the decoded instruction's rule
and the commit. -/
theorem stepRunsTheDecodedInstruction : Obligations.StepRunsTheDecodedInstruction := by
  unfold Obligations.StepRunsTheDecodedInstruction
  intro s bs i hw he hb hbs hd
  have hx := executeNext_of_decode hw he hb hbs hd
  refine ⟨fun hr => ?idle, fun hr hs hbp hend => ?running⟩
  case idle =>
    rw [step_of_idle hw hr, hx]
    rfl
  case running =>
    rw [step_of_running hw hr, runIteration_eq_mapNext hs hbp hend, hx, execAndCommit_eq_mapNext,
      ← State.advance]
    cases exec i (s.advance i.width) <;> rfl

/-! ### The delay-slot commit (45_control R224, R225) -/

theorem isBranch_iff (i : Instr) :
    i.isBranch = true ↔ (∃ a b, i = .jump a b) ∨ ∃ a b, i = .jr a b := by
  cases i with
  | jump a b => exact iff_of_true rfl (.inl ⟨a, b, rfl⟩)
  | jr a b => exact iff_of_true rfl (.inr ⟨a, b, rfl⟩)
  | _ => exact iff_of_false nofun (by rintro (⟨_, _, ⟨⟩⟩ | ⟨_, _, ⟨⟩⟩))

section
variable {s : State}

theorem State.commitDelaySlot_of_branch : s.commitDelaySlot true = s := by
  rw [State.commitDelaySlot_eq, if_pos (.inl rfl)]

theorem State.commitDelaySlot_of_inBounds (hp : s.ds.pending = true) (ho : s.outOfBounds s.ds.target 2 = false) :
    s.commitDelaySlot false = { s with pc := s.ds.target, ds := { target := s.ds.target, pending := false } } := by
  rw [State.commitDelaySlot_eq, if_neg (by simp [hp]), if_neg (by simp [ho])]

theorem State.commitDelaySlot_of_outOfBounds (hp : s.ds.pending = true) (ho : s.outOfBounds s.ds.target 2 = true) :
    s.commitDelaySlot false = (s.report (.pcOutOfBounds s.ds.target)).resetCore := by
  rw [State.commitDelaySlot_eq, if_neg (by simp [hp]), if_pos ho]
  rfl

end

/-- Settles O11: the commit after a branch, with an empty slot, and with a target in bounds. -/
theorem commitFollowsEveryNonBranch : Obligations.CommitFollowsEveryNonBranch := by
  unfold Obligations.CommitFollowsEveryNonBranch
  intro i s t hx
  rw [execAndCommit_of_next hx]
  refine ⟨isBranch_iff i, fun hb => ?branch, fun _ hp => ?empty, fun hb hp hsign hsize => ?inBounds⟩
  case branch => rw [hb, State.commitDelaySlot_of_branch]
  case empty => rw [State.commitDelaySlot_of_not_pending _ hp]
  case inBounds =>
    have ho : t.outOfBounds t.ds.target 2 = false := by
      rw [Bool.eq_false_iff, Ne, State.outOfBounds_iff, hsign]
      simpa using hsize
    rw [hb, State.commitDelaySlot_of_inBounds hp ho]

/-- Settles O12: the commit is the report of the target and then a reset of the core. -/
theorem targetOutsideMemoryResetsTheCore : Obligations.TargetOutsideMemoryResetsTheCore := by
  unfold Obligations.TargetOutsideMemoryResetsTheCore
  intro i s t hx hb hp hout
  have hu : execAndCommit i s = .next (t.report (.pcOutOfBounds t.ds.target)).resetCore := by
    rw [execAndCommit_of_next hx, hb, State.commitDelaySlot_of_outOfBounds hp ((t.outOfBounds_iff _ _).2 hout)]
  exact ⟨_, hu, by simp⟩

/-! ### The branches (45_control R226, R227) -/

/-- Everything is unchanged but the delay slot. -/
structure OnlyDelaySlot (s t : State) : Prop where
  regs : RegsSame s t
  flags : FlagsSame s t
  mem : MemSame s t
  host : HostStateSame s t
  bank : t.bank = s.bank
  selfStop : t.selfStop = s.selfStop
  reports : t.reports = s.reports

/-- What a branch leaves: the target recorded when it is taken, else the state as it was. -/
def State.branchTo (s : State) (taken : Bool) (target : Long) : State := if taken then s.setDelaySlot target else s

theorem exec_jump (a : Reg) (b : Field) (s : State) :
    exec (.jump a b) s = .next (s.branchTo (s.condMatch b) (s.x a &&& 0xFFFFFFFE)) := rfl

theorem exec_jr (a b : Field) (s : State) :
    exec (.jr a b) s = .next (s.branchTo (s.condMatch b) (s.pc + trunc32 (2 * signed5 a))) := rfl

section
variable (s : State) (target : Long)

theorem State.branchTo_onlyDelaySlot (taken : Bool) : OnlyDelaySlot s (s.branchTo taken target) := by
  cases taken with
  | false => exact ⟨fun _ _ => rfl, ⟨rfl, rfl, rfl⟩, fun _ => rfl, .refl s, rfl, rfl, rfl⟩
  | true => exact ⟨s.reg_setDelaySlot target, ⟨rfl, rfl, rfl⟩, fun _ => rfl, .refl s, rfl, rfl, rfl⟩

theorem State.branchTo_taken : (s.branchTo true target).ds = { target := target, pending := true } := rfl

theorem State.branchTo_notTaken : s.branchTo false target = s := rfl

end

theorem jump_target_toNat (v : Long) : (v &&& 0xFFFFFFFE).toNat = v.toNat - v.toNat % 2 := alignDown_toNat .word v

theorem jr_target_toNat (pc : Long) (a : Field) :
    ((pc + trunc32 (2 * signed5 a)).toNat : Int) = ((pc.toNat : Int) + 2 * signedValue a) % 2 ^ 32 := by
  have ht := trunc32_toNat (2 * signed5 a)
  rw [BitVec.toNat_add, ← signed5_eq]
  omega

/-- Settles O49: both are one branch, to the target of each. -/
theorem branchesRecordTheirTarget : Obligations.BranchesRecordTheirTarget := by
  unfold Obligations.BranchesRecordTheirTarget
  intro s a b
  obtain ⟨hregs, hflags, hmem, hhost, hbank, hstop, hreports⟩ :=
    s.branchTo_onlyDelaySlot (s.x a &&& 0xFFFFFFFE) (s.condMatch b)
  obtain ⟨hregs', hflags', hmem', hhost', hbank', hstop', hreports'⟩ :=
    s.branchTo_onlyDelaySlot (s.pc + trunc32 (2 * signed5 a)) (s.condMatch b)
  refine ⟨_, _, exec_jump a b s, exec_jr a b s, fun hc => ?taken, fun hc => ?notTaken, hregs, hflags, hmem, hhost, hbank,
    hstop, hreports, hregs', hflags', hmem', hhost', hbank', hstop', hreports'⟩
  case taken =>
    rw [hc, State.branchTo_taken, State.branchTo_taken]
    exact ⟨rfl, jump_target_toNat (s.x a), rfl, jr_target_toNat s.pc a⟩
  case notTaken =>
    rw [hc, State.branchTo_notTaken, State.branchTo_notTaken]
    exact ⟨rfl, rfl⟩

/-! ### The conditions (45_control R228) -/

/-- The fifteen values that 45_control R228 lists, with the condition of each. -/
def listedConditions : List (Nat × Cond) :=
  [(0x00, .t), (0x01, .nz), (0x02, .z), (0x04, .nc), (0x05, .nc_nz), (0x06, .nc_z), (0x08, .c), (0x09, .c_nz),
   (0x0A, .c_z), (0x14, .nn), (0x15, .nn_nz), (0x16, .nn_z), (0x18, .n), (0x19, .n_nz), (0x1A, .n_z)]

theorem matchesWhen_iff_listed (value : Nat) (z n c : Bool) :
    matchesWhen value z n c ↔ ∃ k, (value, k) ∈ listedConditions ∧ condHolds k z n c = true := by
  simp [matchesWhen, listedConditions, condHolds, or_and_right, exists_or, and_assoc]

/-- The default table gives a listed value its condition (92 D10). -/
theorem defaultCondTable_of_listed : ∀ f : Field, ∀ p ∈ listedConditions, p.1 = f.toNat →
    defaultCondTable[f.toNat]'f.isLt = p.2 := by decide

/-- The default table has a condition that can match at the listed values only (92 D10). -/
theorem defaultCondTable_cases : ∀ f : Field, (f.toNat, defaultCondTable[f.toNat]'f.isLt) ∈ listedConditions
    ∨ defaultCondTable[f.toNat]'f.isLt = .never ∨ defaultCondTable[f.toNat]'f.isLt = .unnamed := by decide

theorem defaultCondTable_holds_iff (f : Field) (z n c : Bool) :
    condHolds (defaultCondTable[f.toNat]'f.isLt) z n c = true ↔ matchesWhen f.toNat z n c := by
  rw [matchesWhen_iff_listed]
  constructor
  · intro h
    obtain hl | hk | hk := defaultCondTable_cases f
    · exact ⟨_, hl, h⟩
    · rw [hk] at h
      cases h
    · rw [hk] at h
      cases h
  · rintro ⟨k, hk, h⟩
    rwa [defaultCondTable_of_listed f _ hk rfl]

/-- Settles O50: the default table, value by value. -/
theorem conditionsMatchExactly : Obligations.ConditionsMatchExactly := by
  unfold Obligations.ConditionsMatchExactly
  intro s f ht
  simp only [State.condMatch, ht, defaultCondTable_holds_iff]

/-! ### `nop` and UNKNOWN (45_control R229, R230) -/

theorem exec_nop (a b : Field) (s : State) : exec (.nop a b) s = .next s := rfl

/-- Settles O51: the rules of the two, and the number of the word that an UNKNOWN carries. -/
theorem nopAndUnknownChangeNothing : Obligations.NopAndUnknownChangeNothing := by
  unfold Obligations.NopAndUnknownChangeNothing
  intro s op a b
  exact ⟨exec_nop a b s, wordOfFields op a b, wordOfFields_toNat op a b, exec_unknown op a b s⟩

end Sys2Proof.Machine
end

section
/-! SUPPORT. Packing (46_pack): a pack of an unpacked value, and the two instructions as one register write each. -/

namespace Sys2Proof.Machine

/-! ### A pack of an unpacked value (46_pack R250, R251) -/

/-- Below bit 16 each field comes back from where `unpack` put it. -/
theorem packed_unpacked_bit (v : Long) {k : Nat} (hk : k < 32) :
    (packed (unpacked v)).getLsbD k = (decide (k < 16) && v.getLsbD k) := by
  rw [packed_bit _ hk]
  split_ifs with low middle high
  · rw [unpacked_bit v hk, if_pos low, decide_eq_true (by omega), Bool.true_and]
  · rw [unpacked_bit v (by omega), if_neg (by omega), if_pos (by omega), Nat.add_sub_cancel, decide_eq_true (by omega),
      Bool.true_and]
  · rw [unpacked_bit v (by omega), if_neg (by omega), if_neg (by omega), if_pos (by omega), Nat.add_sub_cancel,
      decide_eq_true high, Bool.true_and]
  · rw [decide_eq_false high, Bool.false_and]

/-- `pack` after `unpack` keeps the low 16 bits and clears the rest. -/
theorem packed_unpacked (v : Long) : packed (unpacked v) = (v.setWidth 16).setWidth 32 := by
  refine BitVec.eq_of_getLsbD_eq fun k hk => ?_
  rw [packed_unpacked_bit v hk, BitVec.getLsbD_setWidth, BitVec.getLsbD_setWidth, decide_eq_true hk, Bool.true_and]

theorem packed_unpacked_toNat (v : Long) : (packed (unpacked v)).toNat = v.toNat % 65536 := by
  rw [packed_unpacked, BitVec.toNat_setWidth_of_le (by decide), BitVec.toNat_setWidth]

/-! ### The two instructions (46_pack R250, R251) -/

theorem exec_pack (b : Reg) (s : State) : exec (.pack b) s = .next (s.setX b (packed (s.x b))) := rfl

theorem exec_unpack (b : Reg) (s : State) : exec (.unpack b) s = .next (s.setX b (unpacked (s.x b))) := rfl

/-- A register of the current bank reads what was written to it. -/
theorem State.x_setX_same (s : State) (i : Reg) (v : Long) : (s.setX i v).x i = v := by
  rw [State.x, State.setX_bank, State.reg_setX_same]

/-- The later of two writes to a register of the current bank is the one that stands. -/
theorem State.reg_setX_setX_same (s : State) (i : Reg) (v w : Long) : ((s.setX i v).setX i w).reg s.bank i = w := by
  simpa only [State.setX_bank] using (s.setX i v).reg_setX_same i w

/-- Settles O48: each instruction is one register write, of a value known bit by bit. -/
theorem packAndUnpackFields : Obligations.PackAndUnpackFields := by
  unfold Obligations.PackAndUnpackFields
  intro s b
  refine ⟨_, _, exec_pack b s, exec_unpack b s, fun k hk => ?packBits, fun k hk => ?unpackBits, s.setX_onlyReg b _,
    s.setX_onlyReg b _, _, exec_pack b _, ?packAfterUnpack⟩
  case packBits => rw [State.reg_setX_same, packed_bit _ hk]
  case unpackBits => rw [State.reg_setX_same, unpacked_bit _ hk]
  case packAfterUnpack => rw [State.reg_setX_setX_same, State.x_setX_same, packed_unpacked_toNat]

end Sys2Proof.Machine
end

section
/-! SUPPORT. The breakpoint set as a strictly rising list: insertion and removal undo each other (60_exceptions R285). -/

namespace Sys2Proof.Machine

/-! ### Insertion into the breakpoint set -/

theorem insertBreakpoint_cons (b : Long) (bs : List Long) (a : Long) :
    insertBreakpoint (b :: bs) a = if a.toNat < b.toNat then a :: b :: bs else b :: insertBreakpoint bs a := rfl

theorem mem_insertBreakpoint (bs : List Long) (a x : Long) : x ∈ insertBreakpoint bs a ↔ x ∈ bs ∨ x = a := by
  induction bs with
  | nil => simp [insertBreakpoint]
  | cons b bs ih =>
    rw [insertBreakpoint_cons]
    split
    · simp only [List.mem_cons]
      tauto
    · simp only [List.mem_cons, ih, or_assoc]

/-- An address below every listed one goes to the front. -/
theorem insertBreakpoint_of_lt {bs : List Long} {a : Long} (h : ∀ b ∈ bs, a.toNat < b.toNat) :
    insertBreakpoint bs a = a :: bs := by
  cases bs with
  | nil => rfl
  | cons b bs => rw [insertBreakpoint_cons, if_pos (h b List.mem_cons_self)]

/-- Removing an address that is not listed changes nothing. -/
theorem filter_ne_of_not_mem {bs : List Long} {a : Long} (h : a ∉ bs) : bs.filter (fun b => b ≠ a) = bs :=
  List.filter_eq_self.2 fun b hb => by simpa using fun hba : b = a => h (hba ▸ hb)

/-- Removing an inserted address restores a list it was absent from. -/
theorem filter_insertBreakpoint {bs : List Long} {a : Long} (h : a ∉ bs) :
    (insertBreakpoint bs a).filter (fun b => b ≠ a) = bs := by
  induction bs with
  | nil => simp [insertBreakpoint]
  | cons b bs ih =>
    have hb : b ≠ a := fun hba => h (hba ▸ List.mem_cons_self)
    have htail : a ∉ bs := fun hm => h (List.mem_cons_of_mem b hm)
    rw [insertBreakpoint_cons]
    split
    · rw [List.filter_cons_of_neg (by simp), filter_ne_of_not_mem h]
    · rw [List.filter_cons_of_pos (by simpa using hb), ih htail]

/-- Inserting a removed address restores a canonical list it was present in. -/
theorem insertBreakpoint_filter {bs : List Long} {a : Long} (hs : sortedBreakpoints bs) (h : a ∈ bs) :
    insertBreakpoint (bs.filter (fun b => b ≠ a)) a = bs := by
  induction bs with
  | nil => cases h
  | cons b bs ih =>
    obtain ⟨hlt, htail⟩ := List.pairwise_cons.1 hs
    obtain rfl | hm := List.mem_cons.1 h
    · have hnot : a ∉ bs := fun hm => Nat.lt_irrefl _ (hlt a hm)
      rw [List.filter_cons_of_neg (by simp), filter_ne_of_not_mem hnot, insertBreakpoint_of_lt hlt]
    · have hba : b.toNat < a.toNat := hlt a hm
      have hne : b ≠ a := fun e => Nat.lt_irrefl _ (e ▸ hba)
      rw [List.filter_cons_of_pos (by simpa using hne), insertBreakpoint_cons, if_neg (by omega), ih htail hm]

/-! ### The toggle (60_exceptions R285) -/

section
variable {s : State} {a : Long}

theorem hostAct_setBreakpoint (hw : s.cfg.wf = true) :
    hostAct (.setBreakpoint (some a)) s = .next (s.toggleBreakpoint a) := by
  simp [hostAct, hw, setBreakpoint]

theorem State.toggleBreakpoint_of_mem (h : a ∈ s.breakpoints) :
    s.toggleBreakpoint a = { s with
      breakpoints := s.breakpoints.filter (fun b => b ≠ a)
      primary := if s.primary = some a then none else s.primary } :=
  if_pos (by simpa [State.hasBreakpoint] using h)

theorem State.toggleBreakpoint_of_not_mem (h : a ∉ s.breakpoints) :
    s.toggleBreakpoint a = { s with breakpoints := insertBreakpoint s.breakpoints a, primary := some a } :=
  if_neg (by simpa [State.hasBreakpoint] using h)

theorem State.toggleBreakpoint_cfg : (s.toggleBreakpoint a).cfg = s.cfg := by
  unfold State.toggleBreakpoint
  split <;> rfl

end

/-- Settles O58: a present address is removed and inserted again, an absent one inserted and removed again. -/
theorem breakpointToggles : Obligations.BreakpointToggles := by
  unfold Obligations.BreakpointToggles
  intro s a hw hs
  have hw' : (s.toggleBreakpoint a).cfg.wf = true := by rw [State.toggleBreakpoint_cfg, hw]
  refine ⟨_, _, hostAct_setBreakpoint hw, hostAct_setBreakpoint hw', ?_⟩
  by_cases ha : a ∈ s.breakpoints
  case pos =>
    rw [State.toggleBreakpoint_of_mem ha, State.toggleBreakpoint_of_not_mem (by simp)]
    exact ⟨fun _ => ⟨fun x => by simp, fun h => if_pos h, fun h => if_neg h⟩, fun h => absurd ha h, insertBreakpoint_filter hs ha⟩
  case neg =>
    have hmem := mem_insertBreakpoint s.breakpoints a
    rw [State.toggleBreakpoint_of_not_mem ha, State.toggleBreakpoint_of_mem ((hmem a).2 (.inr rfl))]
    exact ⟨fun h => absurd h ha, fun _ => ⟨hmem, rfl, by simp [State.hasBreakpoint], if_pos rfl⟩,
      filter_insertBreakpoint ha⟩

end Sys2Proof.Machine
end

section
/-! SUPPORT. Completion: every instruction answers a next state but one that meets a byte nothing has written, and no step is
refused (60_exceptions R270, R280). -/

namespace Sys2Proof.Machine

/-! ### Instructions by their access to memory -/

/-- An instruction that is no load and may not write memory completes (45_control R222). -/
theorem exec_completes_without_access {i : Instr} {s : State} (hl : s.loadOperand i = none)
    (hm : s.mayWriteMemory i = false) : ∃ t, exec i s = .next t := by
  cases i with
  | loadb | loadw | load | loadR14n | loadR15n | loadR14rm | loadR15rm => cases hl
  | storeb | storew | store | storeR14n | storeR15n | storeR14rm | storeR15rm => cases hm
  | div a b =>
    have hmode : s.mode = .dsp := by
      cases h : s.mode with
      | gpu => simp [State.mayWriteMemory, h] at hm
      | dsp => rfl
    exact ⟨s.setX b (divQuotient (s.x b) (s.x a)), by change execDiv a b s = _; rw [execDiv, hmode]⟩
  | _ => exact ⟨_, rfl⟩

/-- An instruction that may write memory is one write, at most after a register write. -/
theorem exec_of_mayWriteMemory {i : Instr} {s : State} (hm : s.mayWriteMemory i = true) :
    ∃ (u : State) (w : Width) (ea v : Long), u.cfg = s.cfg ∧ u.mem = s.mem
      ∧ exec i s = outcomeOf (u.memWrite w ea v) := by
  by_cases hi : ∃ a b, i = .div a b
  case pos =>
    obtain ⟨a, b, rfl⟩ := hi
    exact ⟨_, _, _, _, by simp, by simp, exec_div_of_gpu a b (by simpa [State.mayWriteMemory] using hm)⟩
  case neg =>
    have hs : (s.storeOperand i).isSome = true := by
      cases i with
      | div a b => exact absurd ⟨a, b, rfl⟩ hi
      | _ => exact hm
    obtain ⟨⟨w, ea, b⟩, hs⟩ := Option.isSome_iff_exists.1 hs
    exact ⟨s, w, ea, s.x b, rfl, rfl, exec_of_storeOperand hs⟩

/-- A load faults only at a byte that has no value (43_load_store R199). -/
theorem State.loadInto_completes_or_unwritten (s : State) (w : Width) (ea : Long) (b : Reg) :
    (∃ t, s.loadInto w ea b = .next t) ∨ ∃ a, s.loadInto w ea b = .fault (.unwrittenByte a) ∧ s.mem.read a = none := by
  rw [State.loadInto_eq]
  cases hr : s.memRead w ea with
  | ok p => exact .inl ⟨_, rfl⟩
  | error f =>
    obtain ⟨a, rfl, ha⟩ := State.memRead_error hr
    exact .inr ⟨a, rfl, ha⟩

/-- A write faults only at a byte that has no value (20_memory R71, R76). -/
theorem State.memWrite_completes_or_unwritten (s : State) (w : Width) (ea v : Long) :
    (∃ t, outcomeOf (s.memWrite w ea v) = .next t)
    ∨ ∃ a, outcomeOf (s.memWrite w ea v) = .fault (.unwrittenByte a) ∧ s.mem.read a = none := by
  cases hw : s.memWrite w ea v with
  | ok t => exact .inl ⟨t, rfl⟩
  | error f =>
    obtain ⟨a, rfl, ha⟩ := State.memWrite_error hw
    exact .inr ⟨a, rfl, ha⟩

theorem exec_completes_or_unwritten (i : Instr) (s : State) :
    (∃ t, exec i s = .next t) ∨ ∃ a, exec i s = .fault (.unwrittenByte a) ∧ s.mem.read a = none := by
  cases hl : s.loadOperand i with
  | some p =>
    obtain ⟨w, ea, b⟩ := p
    rw [exec_of_loadOperand hl]
    exact s.loadInto_completes_or_unwritten w ea b
  | none =>
    cases hm : s.mayWriteMemory i with
    | true =>
      obtain ⟨u, w, ea, v, -, hmem, hx⟩ := exec_of_mayWriteMemory hm
      rw [hx, ← hmem]
      exact u.memWrite_completes_or_unwritten w ea v
    | false => exact .inl (exec_completes_without_access hl hm)

/-! ### The write hook under the invariant -/

/-- A long whose four bytes have a value can be read (20_memory R62). -/
theorem State.readLong_of_isSome {s : State} {a : Nat} (h : ∀ k, k < 4 → (s.mem.read (a + k)).isSome = true) :
    ∃ v, s.readLong a = .ok v := by
  obtain ⟨b3, h3⟩ := Option.isSome_iff_exists.1 (h 0 (by decide))
  obtain ⟨b2, h2⟩ := Option.isSome_iff_exists.1 (h 1 (by decide))
  obtain ⟨b1, h1⟩ := Option.isSome_iff_exists.1 (h 2 (by decide))
  obtain ⟨b0, h0⟩ := Option.isSome_iff_exists.1 (h 3 (by decide))
  rw [State.readLong, State.readByte_written (a := a) h3, State.readByte_written h2, State.readByte_written h1,
    State.readByte_written h0]
  exact ⟨_, rfl⟩

theorem State.modeParams_flagsAddr_mem (s : State) : s.modeParams.flagsAddr ∈ s.cfg.registerAddrs := by
  unfold State.modeParams
  split <;> simp [Config.registerAddrs]

theorem State.modeParams_ctrlAddr_mem (s : State) : s.modeParams.ctrlAddr ∈ s.cfg.registerAddrs := by
  unfold State.modeParams
  split <;> simp [Config.registerAddrs]

/-- The hook finds a value in every register it reads (20_memory R76, R77; log entry 23). -/
theorem State.writeHook_completes {s : State}
    (h : ∀ r ∈ s.cfg.registerAddrs, ∀ k, k < 4 → (s.mem.read (r.toNat + k)).isSome = true) :
    ∃ t, s.writeHook = .ok t := by
  obtain ⟨f, hf⟩ := State.readLong_of_isSome (h _ s.modeParams_flagsAddr_mem)
  exact State.writeHook_answers hf fun _ => State.readLong_of_isSome (h _ s.modeParams_ctrlAddr_mem)

theorem MemoryInv.memWrite_completes {s : State} (h : MemoryInv s.cfg s.mem) (w : Width) (ea v : Long) :
    ∃ t, s.memWrite w ea v = .ok t := by
  rw [State.memWrite_eq]
  split
  · exact ⟨_, rfl⟩
  · exact State.writeHook_completes fun r hr k hk => Memory.isSome_writeBytes (h.registersHold r hr k hk)

theorem exec_completes_of_inv {i : Instr} {s : State} (h : s.Inv) (hl : s.loadOperand i = none) :
    ∃ t, exec i s = .next t := by
  cases hm : s.mayWriteMemory i with
  | true =>
    obtain ⟨u, w, ea, v, hcfg, hmem, hx⟩ := exec_of_mayWriteMemory hm
    have hu : MemoryInv u.cfg u.mem := by rw [hcfg, hmem]; exact h.memory
    obtain ⟨t, ht⟩ := hu.memWrite_completes w ea v
    exact ⟨t, by rw [hx, ht]; rfl⟩
  | false => exact exec_completes_without_access hl hm

/-! ### A step is not refused -/

theorem executeNext_ne_refused (s : State) (r : Refusal) : executeNext s ≠ .refused r := by
  unfold executeNext executeWord
  split
  · split
    · next i u hi =>
      obtain ⟨t, hx⟩ | ⟨a, hx, -⟩ := exec_completes_or_unwritten i u
      · rw [execAndCommit_of_next hx]
        nofun
      · rw [execAndCommit_eq_mapNext, hx]
        nofun
    · nofun
  · nofun

theorem runIteration_ne_refused (s : State) (r : Refusal) : runIteration s ≠ .refused r := by
  unfold runIteration
  split
  · nofun
  split
  · nofun
  split
  · nofun
  split
  · nofun
  · nofun
  · next q hq => exact absurd hq (executeNext_ne_refused s q)

/-- Settles O21: an instruction by its access to memory, a step by its run state. -/
theorem everyInstructionCompletesOrMeetsAnUnwrittenByte :
    Obligations.EveryInstructionCompletesOrMeetsAnUnwrittenByte := by
  unfold Obligations.EveryInstructionCompletesOrMeetsAnUnwrittenByte
  refine ⟨exec_completes_or_unwritten, fun i s => exec_completes_of_inv, fun s r hw => ?_⟩
  cases hr : s.runState with
  | noImage => rw [step_of_noImage hw hr]; nofun
  | idle => rw [step_of_idle hw hr]; exact executeNext_ne_refused s r
  | running => rw [step_of_running hw hr]; exact runIteration_ne_refused s r

end Sys2Proof.Machine
end

section
/-! SUPPORT. Noninterference: the report sequence, SUPPRESS_ALIGN_WARN and the breakpoint set decide nothing that one
executed instruction does (60_exceptions R260, R261, R286). -/

namespace Sys2Proof.Machine

/-! ### The fields that decide nothing -/

/-- The fields of the state that no executed instruction lets decide its result. -/
structure Sideband where
  reports : List Report
  suppressAlignWarn : Bool
  breakpoints : List Long

/-- Append one record (60_exceptions R260). -/
def Sideband.report (d : Sideband) (r : Report) : Sideband := { d with reports := d.reports ++ [r] }

/-- Append an alignment warning unless they are suppressed (20_memory R64). -/
def Sideband.warn (d : Sideband) (r : Report) : Sideband := if d.suppressAlignWarn = false then d.report r else d

def State.sideband (s : State) : Sideband := ⟨s.reports, s.cfg.suppressAlignWarn, s.breakpoints⟩

def State.withSideband (s : State) (d : Sideband) : State :=
  { s with
    reports := d.reports
    cfg := { s.cfg with suppressAlignWarn := d.suppressAlignWarn }
    breakpoints := d.breakpoints }

section
variable (s : State) (d : Sideband)

@[simp] theorem State.withSideband_sideband : s.withSideband s.sideband = s := rfl
@[simp] theorem State.sideband_withSideband : (s.withSideband d).sideband = d := rfl

theorem State.report_eq_withSideband (r : Report) : s.report r = s.withSideband (s.sideband.report r) := rfl

theorem State.noteAlignment_eq_withSideband (w : Width) (addr : Long) :
    s.noteAlignment w addr = if alignDown w addr ≠ addr
      then s.withSideband (s.sideband.warn (.alignmentWarning addr (widthBytes w))) else s := by
  unfold State.noteAlignment Sideband.warn
  by_cases ha : alignDown w addr = addr
  · simp [ha]
  · by_cases hq : s.cfg.suppressAlignWarn = false
    · have hd : s.sideband.suppressAlignWarn = false := hq
      rw [if_pos ⟨ha, hq⟩, if_pos ha, if_pos hd]
      rfl
    · have hd : ¬ s.sideband.suppressAlignWarn = false := hq
      rw [if_neg fun h => hq h.2, if_pos ha, if_neg hd]
      rfl

/-! ### Reads and writes of the other fields -/

@[simp] theorem State.withSideband_x (i : Reg) : (s.withSideband d).x i = s.x i := rfl
@[simp] theorem State.withSideband_xo (i : Reg) : (s.withSideband d).xo i = s.xo i := rfl
@[simp] theorem State.withSideband_pc : (s.withSideband d).pc = s.pc := rfl
@[simp] theorem State.withSideband_c : (s.withSideband d).c = s.c := rfl
@[simp] theorem State.withSideband_condMatch (f : Field) : (s.withSideband d).condMatch f = s.condMatch f := rfl

@[simp] theorem State.withSideband_setReg (k : Bool) (i : Reg) (v : Long) :
    (s.withSideband d).setReg k i v = (s.setReg k i v).withSideband d := by cases k <;> rfl
@[simp] theorem State.withSideband_setX (i : Reg) (v : Long) :
    (s.withSideband d).setX i v = (s.setX i v).withSideband d := s.withSideband_setReg d s.bank i v
@[simp] theorem State.withSideband_setXo (i : Reg) (v : Long) :
    (s.withSideband d).setXo i v = (s.setXo i v).withSideband d := s.withSideband_setReg d (!s.bank) i v
@[simp] theorem State.withSideband_setZN (v : Long) : (s.withSideband d).setZN v = (s.setZN v).withSideband d := rfl
@[simp] theorem State.withSideband_setC (c : Bool) : (s.withSideband d).setC c = (s.setC c).withSideband d := rfl
@[simp] theorem State.withSideband_addInto (b : Reg) (y : Long) (c : Bool) :
    (s.withSideband d).addInto b y c = (s.addInto b y c).withSideband d := by simp [State.addInto]
@[simp] theorem State.withSideband_subInto (b : Reg) (y : Long) (c : Bool) :
    (s.withSideband d).subInto b y c = (s.subInto b y c).withSideband d := by simp [State.subInto]
@[simp] theorem State.withSideband_compare (x y : Long) :
    (s.withSideband d).compare x y = (s.compare x y).withSideband d := rfl
@[simp] theorem State.withSideband_resultZN (b : Reg) (v : Long) :
    (s.withSideband d).resultZN b v = (s.resultZN b v).withSideband d := by simp [State.resultZN]
@[simp] theorem State.withSideband_shiftInto (b : Reg) (v : Long) (c : Bool) :
    (s.withSideband d).shiftInto b v c = (s.shiftInto b v c).withSideband d := by simp [State.shiftInto]
@[simp] theorem State.withSideband_shiftBy (right : Long → Nat → Long) (b : Reg) (amt : Int) :
    (s.withSideband d).shiftBy right b amt = (s.shiftBy right b amt).withSideband d := by
  unfold State.shiftBy
  split <;> simp
@[simp] theorem State.withSideband_branchTo (taken : Bool) (target : Long) :
    (s.withSideband d).branchTo taken target = (s.branchTo taken target).withSideband d := by cases taken <;> rfl

end

/-! ### States and outcomes alike -/

/-- The relation between sidebands survives whatever the machine appends to both. -/
structure SurvivesReports (R : Sideband → Sideband → Prop) : Prop where
  report : ∀ {c d} r, R c d → R (c.report r) (d.report r)
  warn : ∀ {c d} r, R c d → R (c.warn r) (d.warn r)

/-- The states differ in their sidebands alone, and those are related. -/
def Alike (R : Sideband → Sideband → Prop) (s t : State) : Prop := ∃ d, R s.sideband d ∧ t = s.withSideband d

/-- Both results are answers, and related, or both are the same fault. -/
inductive SameResult {α : Type} (P : α → α → Prop) : Except Fault α → Except Fault α → Prop
  | ok {a b : α} (h : P a b) : SameResult P (.ok a) (.ok b)
  | error (f : Fault) : SameResult P (.error f) (.error f)

/-- Both outcomes are next states, and related, or both are the same fault. -/
inductive SameOutcome (P : State → State → Prop) :
    Host.Outcome State Fault Refusal → Host.Outcome State Fault Refusal → Prop
  | next {s t : State} (h : P s t) : SameOutcome P (.next s) (.next t)
  | fault (f : Fault) : SameOutcome P (.fault f) (.fault f)

/-- The same value, and states alike. -/
def AlikeWith {α : Type} (R : Sideband → Sideband → Prop) (p q : α × State) : Prop := p.1 = q.1 ∧ Alike R p.2 q.2

/-- An update that neither reads nor writes the sideband. -/
def Overlooks (f : State → State) : Prop := ∀ s d, f (s.withSideband d) = (f s).withSideband d

theorem Overlooks.sideband {f : State → State} (hf : Overlooks f) (s : State) : (f s).sideband = s.sideband := by
  have h := congrArg State.sideband (hf s s.sideband)
  rwa [State.withSideband_sideband, State.sideband_withSideband] at h

theorem SameResult.same {α : Type} (x : Except Fault α) : SameResult Eq x x := by
  cases x with
  | ok a => exact .ok rfl
  | error f => exact .error f

theorem SameResult.bind {α β : Type} {P : α → α → Prop} {Q : β → β → Prop} {x y : Except Fault α}
    {f g : α → Except Fault β} (h : SameResult P x y) (hfg : ∀ a b, P a b → SameResult Q (f a) (g b)) :
    SameResult Q (x >>= f) (y >>= g) := by
  cases h with
  | ok h => exact hfg _ _ h
  | error f => exact .error f

theorem SameResult.outcomeOf {P : State → State → Prop} {x y : Except Fault State} (h : SameResult P x y) :
    SameOutcome P (outcomeOf x) (outcomeOf y) := by
  cases h with
  | ok h => exact .next h
  | error f => exact .fault f

/-- The outcome of going on from an answer; a fault stands. -/
def outcomeAfter {α : Type} (f : α → Host.Outcome State Fault Refusal) :
    Except Fault α → Host.Outcome State Fault Refusal
  | .ok a => f a
  | .error e => .fault e

theorem executeWord_eq_outcomeAfter (w : Word) (s : State) : executeWord w s =
    outcomeAfter (fun p => execAndCommit p.1 p.2) ((s.advance (kindOfWord s.cfg.opcodeMap w).width).instruction w) := by
  unfold executeWord
  cases (s.advance (kindOfWord s.cfg.opcodeMap w).width).instruction w <;> rfl

theorem executeNext_eq_outcomeAfter (s : State) :
    executeNext s = outcomeAfter (fun p => executeWord p.1 p.2) (s.fetch s.pc) := by
  unfold executeNext
  cases s.fetch s.pc <;> rfl

theorem skipNext_eq_outcomeAfter (s : State) : skipNext s =
    outcomeAfter (fun p => .next (p.2.advance (kindOfWord p.2.cfg.opcodeMap p.1).width)) (s.fetch s.pc) := by
  unfold skipNext
  cases s.fetch s.pc <;> rfl

theorem SameResult.outcomeAfter {R : Sideband → Sideband → Prop} {P : State → State → Prop} {α : Type}
    {x y : Except Fault (α × State)} {f : α × State → Host.Outcome State Fault Refusal}
    (h : SameResult (AlikeWith R) x y) (hf : ∀ v s t, Alike R s t → SameOutcome P (f (v, s)) (f (v, t))) :
    SameOutcome P (Machine.outcomeAfter f x) (Machine.outcomeAfter f y) := by
  cases h with
  | @ok p q h =>
    obtain ⟨v, s⟩ := p
    obtain ⟨_, t⟩ := q
    obtain ⟨rfl, h⟩ := h
    exact hf v s t h
  | error f => exact .fault f

theorem SameOutcome.next_or_fault {P : State → State → Prop} {x y : Host.Outcome State Fault Refusal}
    (h : SameOutcome P x y) :
    (∃ s t, x = .next s ∧ y = .next t ∧ P s t) ∨ ∃ f, x = .fault f ∧ y = .fault f := by
  cases h with
  | next h => exact .inl ⟨_, _, rfl, rfl, h⟩
  | fault f => exact .inr ⟨f, rfl, rfl⟩

theorem SameOutcome.mapNext {P Q : State → State → Prop} {x y : Host.Outcome State Fault Refusal}
    {f g : State → State} (h : SameOutcome P x y) (hfg : ∀ s t, P s t → Q (f s) (g t)) :
    SameOutcome Q (Machine.mapNext f x) (Machine.mapNext g y) := by
  cases h with
  | next h => exact .next (hfg _ _ h)
  | fault f => exact .fault f

/-! ### The operations keep states alike -/

section
variable {R : Sideband → Sideband → Prop} {s t : State}

theorem Alike.update {f : State → State} (hf : Overlooks f) (h : Alike R s t) : Alike R (f s) (f t) := by
  obtain ⟨d, hd, rfl⟩ := h
  exact ⟨d, by rwa [hf.sideband], hf s d⟩

theorem Alike.next {f : State → State} (h : Alike R s t) (hf : Overlooks f) :
    SameOutcome (Alike R) (.next (f s)) (.next (f t)) := .next (h.update hf)

/-- What does not read the sideband is the same of states alike. -/
theorem Alike.read {α : Type} (h : Alike R s t) (g : State → α) (hg : ∀ s d, g (s.withSideband d) = g s) :
    g t = g s := by
  obtain ⟨d, -, rfl⟩ := h
  exact hg s d

variable (hR : SurvivesReports R)
include hR

theorem Alike.report (h : Alike R s t) (r : Report) : Alike R (s.report r) (t.report r) := by
  obtain ⟨d, hd, rfl⟩ := h
  exact ⟨d.report r, hR.report r hd, rfl⟩

theorem Alike.noteAlignment (h : Alike R s t) (w : Width) (addr : Long) :
    Alike R (s.noteAlignment w addr) (t.noteAlignment w addr) := by
  obtain ⟨d, hd, rfl⟩ := h
  rw [State.noteAlignment_eq_withSideband, State.noteAlignment_eq_withSideband]
  split
  · exact ⟨_, hR.warn _ hd, rfl⟩
  · exact ⟨d, hd, rfl⟩

theorem Alike.noteRestricted (h : Alike R s t) (w : Width) (a : Long) :
    Alike R (s.noteRestricted w a) (t.noteRestricted w a) := by
  have hc := h.read (fun s => s.addressClass a (widthBytes w)) fun _ _ => rfl
  rw [State.noteRestricted, State.noteRestricted, hc]
  split
  · exact h.report hR _
  · exact h

theorem Alike.memRead (h : Alike R s t) (w : Width) (addr : Long) :
    SameResult (AlikeWith R) (s.memRead w addr) (t.memRead w addr) := by
  have hn := h.noteAlignment hR w addr
  have hc := hn.read (fun s => s.addressClass (alignDown w addr) (widthBytes w)) fun _ _ => rfl
  simp only [State.memRead, hc]
  split
  · exact .ok ⟨rfl, hn.report hR _⟩
  · have hr := hn.noteRestricted hR w (alignDown w addr)
    rw [State.readWidth_congr (hr.read State.mem fun _ _ => rfl)]
    exact (SameResult.same _).bind fun a b e => .ok ⟨e, hr⟩

theorem Alike.selfStopCheck (h : Alike R s t) : SameResult (Alike R) s.selfStopCheck t.selfStopCheck := by
  rw [State.selfStopCheck, State.selfStopCheck, h.read State.runActive fun _ _ => rfl]
  split
  · rw [h.read (fun s => s.readLong s.params.ctrlAddr.toNat) fun _ _ => rfl,
      h.read (fun s => s.cfg.enableBit) fun _ _ => rfl]
    refine (SameResult.same _).bind ?_
    rintro v _ rfl
    split
    · exact .ok h
    · exact .ok ((h.update (f := fun s => { s with selfStop := true }) fun _ _ => rfl).report hR _)
  · exact .ok h

theorem Alike.writeHook (h : Alike R s t) : SameResult (Alike R) s.writeHook t.writeHook := by
  rw [State.writeHook, State.writeHook, h.read (fun s => s.readLong s.params.flagsAddr.toNat) fun _ _ => rfl]
  refine (SameResult.same _).bind ?_
  rintro v _ rfl
  exact (h.update (f := fun s => { s with bank := v.getLsbD Config.bankBit }) fun _ _ => rfl).selfStopCheck hR

theorem Alike.memWrite (h : Alike R s t) (w : Width) (addr v : Long) :
    SameResult (Alike R) (s.memWrite w addr v) (t.memWrite w addr v) := by
  have hn := h.noteAlignment hR w addr
  have hc := hn.read (fun s => s.addressClass (alignDown w addr) (widthBytes w)) fun _ _ => rfl
  simp only [State.memWrite, hc]
  split
  · exact .ok (hn.report hR _)
  · have hr := hn.noteRestricted hR w (alignDown w addr)
    exact (hr.update (f := fun s => s.putBytes _ _) fun _ _ => rfl).writeHook hR

theorem Alike.fetch (h : Alike R s t) (addr : Long) : SameResult (AlikeWith R) (s.fetch addr) (t.fetch addr) := by
  have hn := h.noteAlignment hR .word addr
  have hc := hn.read (fun s => s.outOfBounds (alignDown .word addr) 2) fun _ _ => rfl
  simp only [State.fetch, hc]
  split
  · exact .ok ⟨rfl, hn.report hR _⟩
  · rw [State.readWord_congr (hn.read State.mem fun _ _ => rfl)]
    exact (SameResult.same _).bind fun a b e => .ok ⟨e, hn⟩

theorem Alike.fetchImmediate (h : Alike R s t) : SameResult (AlikeWith R) s.fetchImmediate t.fetchImmediate := by
  rw [State.fetchImmediate, State.fetchImmediate, h.read State.pc fun _ _ => rfl]
  refine (h.fetch hR _).bind ?_
  rintro ⟨w1, s1⟩ ⟨_, t1⟩ ⟨rfl, h1⟩
  refine (h1.fetch hR _).bind ?_
  rintro ⟨w2, s2⟩ ⟨_, t2⟩ ⟨rfl, h2⟩
  exact .ok ⟨congrArg (immediate · w1 w2) (h2.read (fun s => s.cfg.moveiWordOrder) fun _ _ => rfl).symm, h2⟩

theorem Alike.instruction (h : Alike R s t) (w : Word) :
    SameResult (AlikeWith R) (s.instruction w) (t.instruction w) := by
  have hm : ∀ {s t}, Alike R s t → t.cfg.opcodeMap = s.cfg.opcodeMap :=
    fun h => h.read (fun s => s.cfg.opcodeMap) fun _ _ => rfl
  by_cases hk : kindOfWord s.cfg.opcodeMap w = .movei
  · rw [State.instruction, State.instruction, hm h, hk]
    refine (h.fetchImmediate hR).bind ?_
    rintro ⟨imm, s1⟩ ⟨_, t1⟩ ⟨rfl, h1⟩
    exact .ok ⟨congrArg (decodeWord · w imm) (hm h1).symm, h1⟩
  · rw [State.instruction_of_word hk, State.instruction_of_word (by rwa [hm h]), hm h]
    exact .ok ⟨rfl, h⟩

/-! ### One executed instruction keeps states alike -/

theorem Alike.loadInto (h : Alike R s t) (w : Width) (ea : Long) (b : Reg) :
    SameOutcome (Alike R) (s.loadInto w ea b) (t.loadInto w ea b) := by
  refine SameResult.outcomeOf ((h.memRead hR w ea).bind ?_)
  rintro ⟨v, s1⟩ ⟨_, t1⟩ ⟨rfl, h1⟩
  exact .ok (h1.update (f := fun s => s.setX b v) fun s d => s.withSideband_setX d b v)

theorem Alike.storeFrom (h : Alike R s t) (w : Width) (ea : Long) (b : Reg) :
    SameOutcome (Alike R) (s.storeFrom w ea b) (t.storeFrom w ea b) := by
  rw [State.storeFrom, State.storeFrom, h.read (fun s => s.x b) fun _ _ => rfl]
  exact (h.memWrite hR w ea _).outcomeOf

theorem Alike.execDiv (h : Alike R s t) (a b : Reg) : SameOutcome (Alike R) (execDiv a b s) (execDiv a b t) := by
  have hx := h.update (f := fun s => s.setX b (divQuotient (s.x b) (s.x a))) fun s d => by simp
  rw [Machine.execDiv, Machine.execDiv, h.read State.mode fun _ _ => rfl]
  split
  · have hv := h.read (fun s => divAdjusted (s.x b) (s.x a)) fun _ _ => rfl
    have hr := h.read (fun s => s.cfg.remainAddr) fun _ _ => rfl
    rw [hv, hr]
    exact (hx.memWrite hR .long _ _).outcomeOf
  · exact .next hx

/-- The rule of an instruction: a load, a store, `div` and UNKNOWN through the operations above, every other one as an
update that overlooks the sideband. -/
theorem Alike.exec (h : Alike R s t) (i : Instr) : SameOutcome (Alike R) (exec i s) (exec i t) := by
  obtain ⟨d, hd, rfl⟩ := id h
  cases i with
  | loadb | loadw | load | loadR14n | loadR15n | loadR14rm | loadR15rm => exact h.loadInto hR _ _ _
  | storeb | storew | store | storeR14n | storeR15n | storeR14rm | storeR15rm => exact h.storeFrom hR _ _ _
  | div a b => exact h.execDiv hR a b
  | unknown op a b => exact .next (h.report hR _)
  | btst a b => exact h.next (f := fun s => { s with z := !(s.x b).getLsbD a.toNat }) fun _ _ => rfl
  | jump a b => exact h.next (f := fun s => s.branchTo (s.condMatch b) (s.x a &&& 0xFFFFFFFE)) fun s d => by simp
  | jr a b =>
    exact h.next (f := fun s => s.branchTo (s.condMatch b) (s.pc + trunc32 (2 * signed5 a))) fun s d => by simp
  | _ =>
    apply h.next
    intro s d
    simp
theorem Alike.checkPc (h : Alike R s t) : Alike R s.checkPc t.checkPc := by
  rw [State.checkPc, State.checkPc, h.read (fun s => s.outOfBounds s.pc 2) fun _ _ => rfl, h.read State.pc fun _ _ => rfl]
  split
  · exact (h.report hR _).update (f := State.resetCore) fun _ _ => rfl
  · exact h

theorem Alike.commitDelaySlot (h : Alike R s t) (isBranch : Bool) :
    Alike R (s.commitDelaySlot isBranch) (t.commitDelaySlot isBranch) := by
  rw [State.commitDelaySlot, State.commitDelaySlot, h.read State.ds fun _ _ => rfl]
  split
  · exact (h.update (f := fun u => { u with pc := s.ds.target, ds := { s.ds with pending := false } })
      fun _ _ => rfl).checkPc hR
  · exact h

theorem Alike.executeWord (h : Alike R s t) (w : Word) :
    SameOutcome (Alike R) (executeWord w s) (executeWord w t) := by
  have ha := h.update (f := fun s => s.advance (kindOfWord s.cfg.opcodeMap w).width) fun _ _ => rfl
  rw [executeWord_eq_outcomeAfter, executeWord_eq_outcomeAfter]
  exact (ha.instruction hR w).outcomeAfter fun i s1 t1 h1 => (h1.exec hR i).mapNext fun _ _ h => h.commitDelaySlot hR _

/-- One executed instruction of states alike leaves states alike, or faults at the same byte. -/
theorem Alike.executeNext (h : Alike R s t) : SameOutcome (Alike R) (executeNext s) (executeNext t) := by
  rw [executeNext_eq_outcomeAfter, executeNext_eq_outcomeAfter, h.read State.pc fun _ _ => rfl]
  exact (h.fetch hR s.pc).outcomeAfter fun w s1 t1 h1 => h1.executeWord hR w

theorem Alike.skipNext (h : Alike R s t) : SameOutcome (Alike R) (skipNext s) (skipNext t) := by
  rw [skipNext_eq_outcomeAfter, skipNext_eq_outcomeAfter, h.read State.pc fun _ _ => rfl]
  refine (h.fetch hR s.pc).outcomeAfter fun w s1 t1 h1 => ?_
  exact h1.next (f := fun s => s.advance (kindOfWord s.cfg.opcodeMap w).width) fun _ _ => rfl

theorem Alike.stopRunFor (h : Alike R s t) (r : StopReason) : Alike R (s.stopRunFor r) (t.stopRunFor r) :=
  (h.update (f := fun s => { s with runState := .idle, selfStop := false, stopRequested := false })
    fun _ _ => rfl).report hR _

theorem Alike.afterRunStep (h : Alike R s t) : Alike R s.afterRunStep t.afterRunStep := by
  rw [State.afterRunStep, State.afterRunStep, h.read State.runState fun _ _ => rfl, h.read State.selfStop fun _ _ => rfl]
  split
  · exact h
  split
  · exact h.stopRunFor hR _
  · exact h

end

/-! ### Reports decide nothing (60_exceptions R260, R261) -/

/-- The sidebands have the same breakpoints. -/
def SameBreakpoints (c d : Sideband) : Prop := d.breakpoints = c.breakpoints

theorem SameBreakpoints.survivesReports : SurvivesReports SameBreakpoints where
  report _ h := h
  warn r h := by
    unfold Sideband.warn
    split <;> split <;> exact h

theorem alike_of_unreported {s t : State} (h : s.unreported = t.unreported) : Alike SameBreakpoints s t := by
  have hbps := congrArg State.breakpoints h
  exact ⟨t.sideband, hbps.symm, (congrArg (·.withSideband t.sideband) h).symm⟩

theorem Alike.unreported {s t : State} (h : Alike SameBreakpoints s t) : s.unreported = t.unreported := by
  obtain ⟨d, hd, rfl⟩ := h
  have hbps : d.breakpoints = s.breakpoints := hd
  simp only [State.unreported, State.withSideband, hbps]

/-- An iteration of the run loop also tests the breakpoints, and nothing else of the sideband (70_reset R316). -/
theorem Alike.runIteration {s t : State} (h : Alike SameBreakpoints s t) :
    SameOutcome (Alike SameBreakpoints) (runIteration s) (runIteration t) := by
  have hR := SameBreakpoints.survivesReports
  have hbps : t.breakpoints = s.breakpoints := by
    obtain ⟨d, hd, rfl⟩ := h
    exact hd
  rw [Machine.runIteration, Machine.runIteration, hbps, h.read State.stopRequested fun _ _ => rfl,
    h.read State.pc fun _ _ => rfl, h.read State.loadAddress fun _ _ => rfl, h.read State.programSize fun _ _ => rfl]
  split
  · exact .next (h.stopRunFor hR _)
  split
  · exact .next (h.stopRunFor hR _)
  split
  · exact .next (h.stopRunFor hR _)
  · exact (h.executeNext hR).mapNext fun _ _ h => h.afterRunStep hR

theorem Alike.step {s t : State} (h : Alike SameBreakpoints s t) (hw : s.cfg.wf = true) :
    SameOutcome (Alike SameBreakpoints) (step s) (step t) := by
  have hR := SameBreakpoints.survivesReports
  have hw' : t.cfg.wf = true := (h.read (fun s => s.cfg.wf) fun _ _ => rfl).trans hw
  have hrun := h.read State.runState fun _ _ => rfl
  cases hr : s.runState with
  | noImage =>
    rw [step_of_noImage hw hr, step_of_noImage hw' (hrun.trans hr)]
    exact .next (h.report hR _)
  | idle =>
    rw [step_of_idle hw hr, step_of_idle hw' (hrun.trans hr)]
    exact h.executeNext hR
  | running =>
    rw [step_of_running hw hr, step_of_running hw' (hrun.trans hr)]
    exact h.runIteration

theorem step_of_not_wf {s : State} (hw : s.cfg.wf = false) : step s = .refused .badConfiguration := if_pos hw

/-- Settles O22: the states are alike with the same breakpoints, and a step keeps that or ends both in the same fault. -/
theorem reportsNeverChangeAResult : Obligations.ReportsNeverChangeAResult := by
  unfold Obligations.ReportsNeverChangeAResult
  intro s t h
  have hst := alike_of_unreported h
  cases hw : s.cfg.wf with
  | false =>
    have hw' : t.cfg.wf = false := (hst.read (fun s => s.cfg.wf) fun _ _ => rfl).trans hw
    rw [step_of_not_wf hw, step_of_not_wf hw']
  | true =>
    obtain ⟨s', t', hs, ht, h'⟩ | ⟨f, hs, ht⟩ := (hst.step hw).next_or_fault
    · rw [hs, ht]
      exact h'.unreported
    · rw [hs, ht]

/-! ### Breakpoints stop a run alone (60_exceptions R286) -/

/-- The second sideband is the first with other breakpoints. -/
def BreakpointsReplaced (bs : List Long) (c d : Sideband) : Prop := d = { c with breakpoints := bs }

theorem BreakpointsReplaced.survivesReports (bs : List Long) : SurvivesReports (BreakpointsReplaced bs) where
  report r h := by
    rw [h]
    rfl
  warn r h := by
    rw [h]
    unfold Sideband.warn
    split <;> rfl

theorem alike_with_breakpoints (s : State) (bs : List Long) :
    Alike (BreakpointsReplaced bs) s { s with breakpoints := bs } := ⟨_, rfl, rfl⟩

theorem Alike.eq_with_breakpoints {s t : State} {bs : List Long} (h : Alike (BreakpointsReplaced bs) s t) :
    t = { s with breakpoints := bs } := by
  obtain ⟨d, rfl, rfl⟩ := h
  rfl

/-- A run stops at a breakpoint before it fetches (70_reset R316). -/
theorem runIteration_of_breakpoint {s : State} (hs : s.stopRequested = false) (hbp : s.pc ∈ s.breakpoints) :
    runIteration s = .next (s.stopRunFor .breakpoint) := by
  unfold runIteration
  rw [if_neg (by simp [hs]), if_pos (by simpa using hbp)]

/-- `step()` and `skip()` of an idle machine do not read the breakpoints (70_reset R313, R314). -/
theorem hostAct_ignores_breakpoints {s : State} (hw : s.cfg.wf = true) (hr : s.runState = .idle) (bs : List Long)
    {op : HostAction} (hop : op ∈ [HostAction.step, HostAction.skip]) :
    SameOutcome (Alike (BreakpointsReplaced bs)) (hostAct op s) (hostAct op { s with breakpoints := bs }) := by
  have h := alike_with_breakpoints s bs
  have hR := BreakpointsReplaced.survivesReports bs
  simp only [List.mem_cons, List.not_mem_nil, or_false] at hop
  obtain rfl | rfl := hop
  · simpa [hostAct, hw, hostStep, hr] using h.executeNext hR
  · simpa [hostAct, hw, hostSkip, hr] using h.skipNext hR

/-- Settles O56: the second test of the run loop, and that one instruction leaves the breakpoints out of account. -/
theorem breakpointStopsBeforeTheFetch : Obligations.BreakpointStopsBeforeTheFetch := by
  unfold Obligations.BreakpointStopsBeforeTheFetch
  intro s hw
  refine ⟨fun hr hs hbp => ?running, fun hr bs op hop => ?idle⟩
  case running =>
    rw [step_of_running hw hr, runIteration_of_breakpoint hs hbp]
    rfl
  case idle =>
    obtain ⟨t, u, ht, hu, h⟩ | ⟨f, ht, hu⟩ := (hostAct_ignores_breakpoints hw hr bs hop).next_or_fault
    · rw [ht, hu]
      exact h.eq_with_breakpoints
    · rw [ht, hu]

end Sys2Proof.Machine
end

section
/-! SUPPORT. The host operations (70_reset R310 to R321): what each is under the run state and the input it meets, and the
two forms of an image file. -/

namespace Sys2Proof.Machine

/-! ### One host operation under admitted parameters (00_scope R5) -/

section
variable {s : State} (hw : s.cfg.wf = true)
include hw

theorem hostAct_loadBin (magic : Long) (file : Option (List Byte)) (address : Long) :
    hostAct (.loadBin magic file address) s = .next (loadBin magic file address s).2 := if_neg (by simp [hw])

theorem hostAct_reset : hostAct .reset s = .next (hostReset s) := if_neg (by simp [hw])

theorem hostAct_step : hostAct .step s = hostStep s := if_neg (by simp [hw])

theorem hostAct_skip : hostAct .skip s = hostSkip s := if_neg (by simp [hw])

theorem hostAct_run : hostAct .run s = .next (hostRun s) := if_neg (by simp [hw])

theorem hostAct_stopRun : hostAct .stopRun s = .next (hostStopRun s) := if_neg (by simp [hw])

theorem hostAct_setBreakpoint_text (text : Option Long) :
    hostAct (.setBreakpoint text) s = .next (setBreakpoint text s) := if_neg (by simp [hw])

theorem hostAct_editRegister (edit : Option (Nat × Nat × Int)) :
    hostAct (.editRegister edit) s = .next (editRegister edit s) := if_neg (by simp [hw])

theorem hostAct_setMode (isPrimaryMode : Bool) :
    hostAct (.setMode isPrimaryMode) s = .next (setMode isPrimaryMode s) := if_neg (by simp [hw])

end

/-- A host operation answers only under parameters that 00_scope R5 admits. -/
theorem cfg_wf_of_hostAct_next {op : HostAction} {s t : State} (h : hostAct op s = .next t) : s.cfg.wf = true := by
  by_contra hw
  have href : hostAct op s = .refused .badConfiguration := if_pos (by simpa using hw)
  rw [href] at h
  cases h

/-! ### The operations by the run state (70_reset R310) -/

section
variable {s : State}

theorem hostReset_of_idle (h : s.runState = .idle) : hostReset s = s.resetCore := by
  simp only [hostReset, h]

theorem hostReset_of_ne_idle (h : s.runState ≠ .idle) : hostReset s = s.reject (.operation .reset) := by
  cases hr : s.runState with
  | idle => exact absurd hr h
  | noImage | running => simp only [hostReset, hr]

theorem hostStep_of_idle (h : s.runState = .idle) : hostStep s = executeNext s := by
  simp only [hostStep, h]

theorem hostStep_of_ne_idle (h : s.runState ≠ .idle) : hostStep s = .next (s.reject (.operation .step)) := by
  cases hr : s.runState with
  | idle => exact absurd hr h
  | noImage | running => simp only [hostStep, hr]

theorem hostSkip_of_idle (h : s.runState = .idle) : hostSkip s = skipNext s := by
  simp only [hostSkip, h]

theorem hostSkip_of_ne_idle (h : s.runState ≠ .idle) : hostSkip s = .next (s.reject (.operation .skip)) := by
  cases hr : s.runState with
  | idle => exact absurd hr h
  | noImage | running => simp only [hostSkip, hr]

theorem hostRun_of_noImage (h : s.runState = .noImage) : hostRun s = s.reject (.operation .run) := by
  simp only [hostRun, h]

theorem hostRun_of_idle (h : s.runState = .idle) :
    hostRun s = { s with runState := .running, selfStop := false, stopRequested := false } := by
  simp only [hostRun, h]

theorem hostRun_of_running (h : s.runState = .running) : hostRun s = { s with stopRequested := true } := by
  simp only [hostRun, h]

theorem hostStopRun_of_running (h : s.runState = .running) : hostStopRun s = s.stopRunFor .requested := by
  simp only [hostStopRun, h]

theorem hostStopRun_of_ne_running (h : s.runState ≠ .running) : hostStopRun s = s := by
  cases hr : s.runState with
  | running => exact absurd hr h
  | noImage | idle => simp only [hostStopRun, hr]

theorem setMode_of_running (h : s.runState = .running) (isPrimaryMode : Bool) :
    setMode isPrimaryMode s = s.reject (.operation .setMode) := if_pos h

theorem setMode_of_ne_running (h : s.runState ≠ .running) (isPrimaryMode : Bool) :
    setMode isPrimaryMode s = { s with mode := if isPrimaryMode then .gpu else .dsp } := if_neg h

theorem editRegister_of_running (h : s.runState = .running) (edit : Option (Nat × Nat × Int)) :
    editRegister edit s = s.reject (.operation .editRegister) := if_pos h

theorem editRegister_of_malformed (h : s.runState ≠ .running) : editRegister none s = s.reject .registerEdit := if_neg h

/-- A well-formed edit is one register write, if its bank and its index exist (70_reset R320). -/
theorem editRegister_of_parsed (h : s.runState ≠ .running) (bank index : Nat) (value : Int) :
    editRegister (some (bank, index, value)) s =
      if bank < 2 ∧ index < 32 then s.setReg (bank == 1) (BitVec.ofNat 5 index) (trunc32 value)
      else s.reject .registerEdit := if_neg h

end

/-! ### The image load (70_reset R303, R311) -/

theorem imageRefused_iff (cfg : Config) (la : Long) (size : Nat) :
    imageRefused cfg la size = true ↔ la.getLsbD 0 = true ∨ cfg.memSize < la.toNat + size := by
  simp only [imageRefused, Bool.or_eq_true, decide_eq_true_eq]

/-- What an accepted load leaves: the image's bytes at its address, its bounds, and the core reset (70_reset R311). -/
def State.imageLoaded (s : State) (la : Long) (body : List Byte) : State :=
  ({ s.putBytes la.toNat body with loadAddress := la, programSize := body.length } : State).resetCore

section
variable {s : State}

theorem loadBin_of_running (h : s.runState = .running) (magic : Long) (file : Option (List Byte)) (address : Long) :
    loadBin magic file address s = (false, s.reject (.operation .loadBin)) := if_pos h

theorem loadBin_of_unreadable (h : s.runState ≠ .running) (magic address : Long) :
    loadBin magic none address s = (false, s.reject .unreadableFile) := if_neg h

/-- A file that can be read is refused as an image or loaded. -/
theorem loadBin_of_readable (h : s.runState ≠ .running) {magic address la : Long} {file body : List Byte}
    (hp : parseImage magic file address = (la, body)) :
    loadBin magic (some file) address s =
      if imageRefused s.cfg la body.length = true then (false, s.reject .image) else (true, s.imageLoaded la body) := by
  unfold loadBin
  rw [if_neg h]
  simp only [hp]
  rfl

theorem loadBin_of_refused (h : s.runState ≠ .running) {magic address la : Long} {file body : List Byte}
    (hp : parseImage magic file address = (la, body))
    (hi : la.getLsbD 0 = true ∨ s.cfg.memSize < la.toNat + body.length) :
    loadBin magic (some file) address s = (false, s.reject .image) := by
  rw [loadBin_of_readable h hp, if_pos ((imageRefused_iff ..).2 hi)]

theorem loadBin_of_accepted (h : s.runState ≠ .running) {magic address la : Long} {file body : List Byte}
    (hp : parseImage magic file address = (la, body)) (he : la.getLsbD 0 = false)
    (hb : la.toNat + body.length ≤ s.cfg.memSize) :
    loadBin magic (some file) address s = (true, s.imageLoaded la body) := by
  have hi : ¬imageRefused s.cfg la body.length = true := by
    rw [imageRefused_iff, he]
    simpa using hb
  rw [loadBin_of_readable h hp, if_neg hi]

/-- All that `loadBin` can answer (70_reset R303, R310, R311). -/
theorem loadBin_cases (magic : Long) (file : Option (List Byte)) (address : Long) (s : State) :
    (∃ r, loadBin magic file address s = (false, s.reject r))
    ∨ ∃ la body, la.getLsbD 0 = false ∧ la.toNat + body.length ≤ s.cfg.memSize
        ∧ loadBin magic file address s = (true, s.imageLoaded la body) := by
  by_cases hr : s.runState = .running
  · exact .inl ⟨_, loadBin_of_running hr magic file address⟩
  cases file with
  | none => exact .inl ⟨_, loadBin_of_unreadable hr magic address⟩
  | some file =>
    generalize hp : parseImage magic file address = p
    obtain ⟨la, body⟩ := p
    rw [loadBin_of_readable hr hp]
    split
    · exact .inl ⟨_, rfl⟩
    · next hi =>
      rw [imageRefused_iff, not_or, Bool.not_eq_true, Nat.not_lt] at hi
      obtain ⟨he, hb⟩ := hi
      exact .inr ⟨la, body, he, hb, rfl⟩

/-- The memory after a load is the image's bytes over the memory before (20_memory R90). -/
theorem State.imageLoaded_read (s : State) (la : Long) (body : List Byte) (x : Nat) :
    (s.imageLoaded la body).mem.read x =
      if la.toNat ≤ x ∧ x < la.toNat + body.length then body[x - la.toNat]? else s.mem.read x :=
  s.mem.read_writeBytes la.toNat body x

end

/-- Settles O53: the state that an accepted load leaves is `State.imageLoaded`, whose fields are the statement's list. -/
theorem loadedImageIsCopiedRaw : Obligations.LoadedImageIsCopiedRaw := by
  unfold Obligations.LoadedImageIsCopiedRaw
  intro s magic address file hr he hb
  generalize hp : parseImage magic file address = p at he hb ⊢
  obtain ⟨la, body⟩ := p
  refine ⟨s.imageLoaded la body, loadBin_of_accepted hr hp he hb, rfl, rfl, rfl, fun k hk => ?inside,
    fun x hx => ?outside, fun k r => State.reg_resetCore _ k r, rfl, rfl, rfl, rfl, rfl, rfl, rfl, rfl, rfl, rfl, rfl, rfl, rfl⟩
  case inside =>
    change (s.imageLoaded la body).mem.read (la.toNat + k) = some body[k]
    have hk' : k < body.length := hk
    rw [State.imageLoaded_read, if_pos (by omega), Nat.add_sub_cancel_left, List.getElem?_eq_getElem]
  case outside =>
    have hx' : x < la.toNat ∨ la.toNat + body.length ≤ x := hx
    rw [State.imageLoaded_read, if_neg (by omega)]

/-! ### The two forms of an image file (70_reset R311) -/

theorem append_bytes_toNat (b3 b2 b1 b0 : Byte) :
    (b3 ++ b2 ++ b1 ++ b0).toNat = b3.toNat * 2 ^ 24 + b2.toNat * 2 ^ 16 + b1.toNat * 2 ^ 8 + b0.toNat := by
  simp only [BitVec.toNat_append]
  rw [← Nat.shiftLeft_add_eq_or_of_lt b2.isLt, ← Nat.shiftLeft_add_eq_or_of_lt b1.isLt,
    ← Nat.shiftLeft_add_eq_or_of_lt b0.isLt]
  simp only [Nat.shiftLeft_eq]
  omega

/-- Four bytes, most significant first, make a long exactly when it is stored as them (20_memory R62). -/
theorem append_bytes_eq_iff (b3 b2 b1 b0 : Byte) (v : Long) :
    b3 ++ b2 ++ b1 ++ b0 = v ↔ storeBytes .long v = [b3, b2, b1, b0] := by
  simp only [storeBytes, List.cons.injEq, and_true, ← BitVec.toNat_inj, append_bytes_toNat, BitVec.extractLsb'_toNat,
    Nat.shiftRight_eq_div_pow]
  omega

/-- All that a file can be parsed to: itself at the address given, or what follows its 12 header bytes at the address they
hold. -/
theorem parseImage_cases (magic : Long) (file : List Byte) (address : Long) :
    parseImage magic file address = (address, file)
    ∨ ∃ la unused body, unused.length = 4
        ∧ file = storeBytes .long magic ++ storeBytes .long la ++ unused ++ body
        ∧ parseImage magic file address = (la, body) := by
  unfold parseImage
  split
  · next m3 m2 m1 m0 a3 a2 a1 a0 u3 u2 u1 u0 body =>
    split
    · next hm =>
      refine .inr ⟨a3 ++ a2 ++ a1 ++ a0, [u3, u2, u1, u0], body, rfl, ?_, rfl⟩
      rw [(append_bytes_eq_iff ..).1 hm, (append_bytes_eq_iff ..).1 rfl]
      rfl
    · exact .inl rfl
  · exact .inl rfl

theorem parseImage_of_header (magic la : Long) {unused : List Byte} (hu : unused.length = 4) (body : List Byte)
    (address : Long) :
    parseImage magic (storeBytes .long magic ++ storeBytes .long la ++ unused ++ body) address = (la, body) := by
  obtain ⟨u3, u2, u1, u0, rfl⟩ := List.length_eq_four.1 hu
  simp only [storeBytes, List.cons_append, List.nil_append, parseImage, (append_bytes_eq_iff ..).2 rfl, if_true]

/-- Settles O54: a header is read back, and a file that is parsed as headered has 12 bytes and starts with the magic. -/
theorem imageHeaderOverridesTheAddress : Obligations.ImageHeaderOverridesTheAddress := by
  unfold Obligations.ImageHeaderOverridesTheAddress
  intro magic address la unused body file
  refine ⟨fun hu => parseImage_of_header magic la hu body address, fun hplain => ?_⟩
  obtain h | ⟨la', unused', body', hu, hfile, -⟩ := parseImage_cases magic file address
  · exact h
  · have hlen : 12 ≤ file.length := by simp [hfile, hu, widthBytes]; omega
    have htake : file.take 4 = storeBytes .long magic := by rw [hfile]; rfl
    exact absurd htake (hplain.resolve_left (by omega))

end Sys2Proof.Machine
end

section
/-! SUPPORT. The host's part of the cycle: skip (45_control R223), the tests of the run loop (70_reset R316), and what the
host's toggles, edits and rejections leave (70_reset R310 to R321). -/

namespace Sys2Proof.Machine

/-! ### Skip (45_control R223) -/

theorem OpKind.ofNat_width (k : OpKind) : BitVec.ofNat 32 k.width = if k = .movei then 6 else 2 := by
  split
  · next h => rw [h]; rfl
  · next h => rw [OpKind.width_of_ne_movei h]; rfl

/-- `skip()` of an idle machine moves `pc` past the word fetched, and keeps the fetch's reports (70_reset R314). -/
theorem hostAct_skip_of_fetch {s t : State} {w : Word} (hw : s.cfg.wf = true) (hr : s.runState = .idle)
    (h : s.fetch s.pc = .ok (w, t)) :
    hostAct .skip s
      = .next { t with pc := t.pc + (if t.cfg.opcodeMap.select (opField w) = .movei then 6 else 2) } := by
  rw [hostAct_skip hw, hostSkip_of_idle hr, skipNext, h]
  simp only [State.advance, OpKind.ofNat_width, kindOfWord]

/-- Settles O10: a skip is its fetch and the move of `pc`; the sentinel word has opcode 63. -/
theorem skipMovesOnlyThePc : Obligations.SkipMovesOnlyThePc := by
  unfold Obligations.SkipMovesOnlyThePc
  intro s hw hr he
  refine ⟨fun h l hb hh hl => ?written, fun hb => ?beyond⟩
  case written => exact hostAct_skip_of_fetch hw hr (State.fetch_written hw he hb hh hl)
  case beyond =>
    have hop : opField 0xFFFF = 63 := by decide
    rw [hostAct_skip_of_fetch hw hr (State.fetch_outOfBounds he hb), hop]
    rfl

/-! ### The tests of the run loop (70_reset R316) -/

section
variable {s : State}

theorem runIteration_of_stopRequested (hs : s.stopRequested = true) :
    runIteration s = .next (s.stopRunFor .requested) := if_pos hs

theorem runIteration_of_endOfImage (hs : s.stopRequested = false) (hbp : s.pc ∉ s.breakpoints)
    (hend : s.loadAddress.toNat + s.programSize ≤ s.pc.toNat) : runIteration s = .next (s.stopRunFor .endOfImage) := by
  unfold runIteration
  rw [if_neg (by simp [hs]), if_neg (by simpa using hbp), if_pos hend]

theorem State.afterRunStep_of_selfStop (hr : s.runState = .running) (hs : s.selfStop = true) :
    s.afterRunStep = s.stopRunFor .selfStop := by
  unfold State.afterRunStep
  rw [if_neg (by simp [hr]), if_pos hs]

theorem State.afterRunStep_of_no_selfStop (h : s.runState ≠ .running ∨ s.selfStop = false) : s.afterRunStep = s := by
  unfold State.afterRunStep
  split
  · rfl
  · next hr =>
    have hs : s.selfStop = false := h.resolve_left hr
    rw [if_neg (by simp [hs])]

end

/-- Settles O55: each test of the run loop in turn, then the executed instruction and the test after it. -/
theorem runLoopTestsInOrder : Obligations.RunLoopTestsInOrder := by
  unfold Obligations.RunLoopTestsInOrder
  intro s t hw hr
  rw [step_of_running hw hr]
  refine ⟨runIteration_of_stopRequested, runIteration_of_breakpoint, runIteration_of_endOfImage,
    fun hs hbp hend hx => ?_⟩
  rw [runIteration_eq_mapNext hs hbp hend, hx, mapNext]
  exact ⟨fun hrt hst => by rw [State.afterRunStep_of_selfStop hrt hst],
    fun h => by rw [State.afterRunStep_of_no_selfStop h]⟩

/-! ### Toggles, edits and rejections (70_reset R310 to R321) -/

/-- Settles O57: `run()` and `stopRun()` in each run state. -/
theorem runTogglesAndStopRunStops : Obligations.RunTogglesAndStopRunStops := by
  unfold Obligations.RunTogglesAndStopRunStops
  intro s hw
  rw [hostAct_run hw, hostAct_stopRun hw]
  refine ⟨fun hr => ?start, fun hr => ?request, fun hr => ?stop, fun hr => ?nothing⟩
  case start => rw [hostRun_of_idle hr]
  case request => rw [hostRun_of_running hr]
  case stop => rw [hostStopRun_of_running hr]; rfl
  case nothing => rw [hostStopRun_of_ne_running hr]

/-- Settles O59: an edit in range is one register write of the truncated value; the other two are their equations. -/
theorem hostEditsRegistersAndMode : Obligations.HostEditsRegistersAndMode := by
  unfold Obligations.HostEditsRegistersAndMode
  intro s bank index value primary hw hr
  rw [hostAct_editRegister hw, hostAct_setMode hw, editRegister_of_parsed hr, setMode_of_ne_running hr]
  refine ⟨fun hbank hindex => ?inRange, fun hout => ?outOfRange, rfl⟩
  case inRange =>
    rw [if_pos ⟨hbank, hindex⟩]
    refine ⟨_, rfl, ?_, s.setReg_onlyReg _ _ _⟩
    rw [← beq_eq_decide, State.reg_setReg_same, trunc32_toNat]
  case outOfRange =>
    rw [if_neg (by omega)]
    rfl

/-- Settles O60: without an image and during a run by the operations' equations, a refused input by its own. -/
theorem disabledHostOperationsAreRejected : Obligations.DisabledHostOperationsAreRejected := by
  unfold Obligations.DisabledHostOperationsAreRejected
  intro s hw
  simp only [hostAct_loadBin hw, hostAct_reset hw, hostAct_step hw, hostAct_skip hw, hostAct_run hw,
    hostAct_editRegister hw, hostAct_setMode hw, hostAct_setBreakpoint_text hw]
  refine ⟨fun hr => ?noImage, fun hr => ?running,
    fun hr => ⟨fun magic file address hi => ?image, fun magic address => ?file, ?edit⟩, rfl⟩
  case noImage =>
    have hi : s.runState ≠ .idle := by simp [hr]
    rw [hostReset_of_ne_idle hi, hostStep_of_ne_idle hi, hostSkip_of_ne_idle hi, hostRun_of_noImage hr]
    exact ⟨rfl, rfl, rfl, rfl⟩
  case running =>
    have hi : s.runState ≠ .idle := by simp [hr]
    rw [hostReset_of_ne_idle hi, hostStep_of_ne_idle hi, hostSkip_of_ne_idle hi]
    simp only [loadBin_of_running hr, editRegister_of_running hr, setMode_of_running hr]
    exact ⟨rfl, rfl, rfl, fun _ _ _ => rfl, fun _ => rfl, fun _ => rfl⟩
  case image =>
    rw [loadBin_of_refused hr rfl hi]
    exact ⟨rfl, rfl⟩
  case file =>
    rw [loadBin_of_unreadable hr]
    exact ⟨rfl, rfl⟩
  case edit =>
    rw [editRegister_of_malformed hr]
    rfl

end Sys2Proof.Machine
end

section
/-! SUPPORT. The invariant under the host operations: each keeps it. -/

namespace Sys2Proof.Machine

/-! ### The breakpoint set (60_exceptions R285; log entry 16) -/

/-- Inserting an absent address keeps the list strictly rising. -/
theorem sortedBreakpoints_insertBreakpoint {bs : List Long} {a : Long} (hs : sortedBreakpoints bs) (h : a ∉ bs) :
    sortedBreakpoints (insertBreakpoint bs a) := by
  induction bs with
  | nil => exact List.pairwise_singleton _ a
  | cons b bs ih =>
    obtain ⟨hb, htail⟩ := List.pairwise_cons.1 hs
    obtain ⟨hne, hnot⟩ := not_or.1 (mt List.mem_cons.2 h)
    rw [insertBreakpoint_cons]
    split
    · next hlt =>
      refine List.pairwise_cons.2 ⟨fun c hc => ?_, hs⟩
      obtain rfl | hc := List.mem_cons.1 hc
      · exact hlt
      · exact hlt.trans (hb c hc)
    · next hle =>
      have hba : b.toNat < a.toNat := by
        have : a.toNat ≠ b.toNat := mt BitVec.eq_of_toNat_eq hne
        omega
      refine List.pairwise_cons.2 ⟨fun c hc => ?_, ih htail hnot⟩
      obtain hc | rfl := (mem_insertBreakpoint bs a c).1 hc
      · exact hb c hc
      · exact hba

/-- The toggle keeps the set canonical, and the primary breakpoint in it (90_conflicts C8). -/
theorem State.Inv.toggleBreakpoint {s : State} (h : s.Inv) (a : Long) : (s.toggleBreakpoint a).Inv := by
  by_cases ha : a ∈ s.breakpoints
  · rw [State.toggleBreakpoint_of_mem ha]
    refine { h with breakpointsSorted := h.breakpointsSorted.filter _, primaryIsBreakpoint := fun p hp => ?_ }
    obtain ⟨hne, hp⟩ : s.primary ≠ some a ∧ s.primary = some p := by simpa using hp
    have hpa : p ≠ a := fun e => hne (e ▸ hp)
    simpa [hpa] using h.primaryIsBreakpoint p hp
  · rw [State.toggleBreakpoint_of_not_mem ha]
    refine { h with
      breakpointsSorted := sortedBreakpoints_insertBreakpoint h.breakpointsSorted ha
      primaryIsBreakpoint := fun p hp => (mem_insertBreakpoint s.breakpoints a p).2 (.inr ?_) }
    exact (Option.some.inj hp).symm

/-! ### Every host operation keeps the invariant -/

section
variable {s : State} (h : s.Inv)
include h

theorem State.Inv.reject (r : Rejection) : (s.reject r).Inv := h.reports _

theorem State.Inv.resetCore : s.resetCore.Inv := h.inStep.resetCore

theorem State.Inv.setReg (k : Bool) (i : Reg) (v : Long) : (s.setReg k i v).Inv := by
  cases k <;> exact { h with }

/-- An image at an even address that fits keeps the memory inside the buffer and the load address even (70_reset R303). -/
theorem State.Inv.imageLoaded {la : Long} {body : List Byte} (he : la.getLsbD 0 = false)
    (hb : la.toNat + body.length ≤ s.cfg.memSize) : (s.imageLoaded la body).Inv := by
  have hm := h.memory.writeBytes hb
  have hput : ({ s.putBytes la.toNat body with loadAddress := la, programSize := body.length } : State).Inv :=
    { h with
      memSorted := hm.sorted, memInBuffer := hm.inBuffer, registersHold := hm.registersHold, loadAddressEven := he }
  exact hput.resetCore

theorem State.Inv.loadBin (magic : Long) (file : Option (List Byte)) (address : Long) :
    (loadBin magic file address s).2.Inv := by
  obtain ⟨r, hl⟩ | ⟨la, body, he, hb, hl⟩ := loadBin_cases magic file address s <;> rw [hl]
  · exact h.reject r
  · exact h.imageLoaded he hb

theorem State.Inv.hostReset : (hostReset s).Inv := by
  by_cases hr : s.runState = .idle
  · rw [hostReset_of_idle hr]
    exact h.resetCore
  · rw [hostReset_of_ne_idle hr]
    exact h.reject _

theorem State.Inv.hostStep {t : State} (hx : hostStep s = .next t) : t.Inv := by
  by_cases hr : s.runState = .idle
  · rw [hostStep_of_idle hr] at hx
    exact (executeNext_keeps_inv h hx).toInv (executeNext_idle_selfStop h hr hx)
  · rw [hostStep_of_ne_idle hr] at hx
    cases hx
    exact h.reject _

/-- `pc` moves past one instruction, so it stays even (45_control R223). -/
theorem State.Inv.skipNext {t : State} (hx : skipNext s = .next t) : t.Inv := by
  obtain ⟨k, rs, rfl⟩ := skipNext_next hx
  exact (h.setPc (advanced_pc_even h.pcEven (opKind_width_cases k))).reports _

theorem State.Inv.hostSkip {t : State} (hx : hostSkip s = .next t) : t.Inv := by
  by_cases hr : s.runState = .idle
  · rw [hostSkip_of_idle hr] at hx
    exact h.skipNext hx
  · rw [hostSkip_of_ne_idle hr] at hx
    cases hx
    exact h.reject _

/-- A stop is requested by `run()` of a running machine alone (70_reset R315). -/
theorem State.Inv.hostRun : (hostRun s).Inv := by
  cases hr : s.runState with
  | noImage =>
    rw [hostRun_of_noImage hr]
    exact h.reject _
  | idle =>
    rw [hostRun_of_idle hr]
    exact { h with noSelfStop := rfl, stopOnlyWhileRunning := fun _ => rfl }
  | running =>
    rw [hostRun_of_running hr]
    exact { h with stopOnlyWhileRunning := fun _ => hr }

theorem State.Inv.hostStopRun : (hostStopRun s).Inv := by
  by_cases hr : s.runState = .running
  · rw [hostStopRun_of_running hr]
    exact h.inStep.stopRunFor _
  · rw [hostStopRun_of_ne_running hr]
    exact h

theorem State.Inv.setBreakpoint (text : Option Long) : (setBreakpoint text s).Inv := by
  cases text with
  | none => exact h.reject _
  | some a => exact h.toggleBreakpoint a

theorem State.Inv.editRegister (edit : Option (Nat × Nat × Int)) : (editRegister edit s).Inv := by
  by_cases hr : s.runState = .running
  · rw [editRegister_of_running hr]
    exact h.reject _
  · match edit with
    | none =>
      rw [editRegister_of_malformed hr]
      exact h.reject _
    | some (bank, index, value) =>
      rw [editRegister_of_parsed hr]
      split
      · exact h.setReg _ _ _
      · exact h.reject _

theorem State.Inv.setMode (isPrimaryMode : Bool) : (setMode isPrimaryMode s).Inv := by
  by_cases hr : s.runState = .running
  · rw [setMode_of_running hr]
    exact h.reject _
  · rw [setMode_of_ne_running hr]
    exact { h with }

end

/-- Settles O15: each host operation keeps the invariant. -/
theorem hostOperationsKeepTheInvariant : Obligations.HostOperationsKeepTheInvariant := by
  unfold Obligations.HostOperationsKeepTheInvariant
  intro op s t h hx
  have hw := cfg_wf_of_hostAct_next hx
  cases op with
  | loadBin magic file address =>
    cases (hostAct_loadBin hw magic file address).symm.trans hx
    exact h.loadBin magic file address
  | reset =>
    cases (hostAct_reset hw).symm.trans hx
    exact h.hostReset
  | step => exact h.hostStep ((hostAct_step hw).symm.trans hx)
  | skip => exact h.hostSkip ((hostAct_skip hw).symm.trans hx)
  | run =>
    cases (hostAct_run hw).symm.trans hx
    exact h.hostRun
  | stopRun =>
    cases (hostAct_stopRun hw).symm.trans hx
    exact h.hostStopRun
  | setBreakpoint text =>
    cases (hostAct_setBreakpoint_text hw text).symm.trans hx
    exact h.setBreakpoint text
  | editRegister edit =>
    cases (hostAct_editRegister hw edit).symm.trans hx
    exact h.editRegister edit
  | setMode isPrimaryMode =>
    cases (hostAct_setMode hw isPrimaryMode).symm.trans hx
    exact h.setMode isPrimaryMode

end Sys2Proof.Machine
end
